-- ==== Sys2Proof/Syntax.lean ====
section
/-! DEFINITION. The eleven operations of the core (spec 30_encoding.md R62), one constructor per row of
spec/opcode_table.json. The operands of a request arrive on its lanes (R66), so only the shape fields of BUILD and
SPLIT are part of the instruction. -/

namespace Sys2Proof

/-- R62: the operations. `cw` and `nw` are the counts C and N of CMD's CW and NW fields (R61, R63); every pair below 8
is an instruction, whether or not it is a legal shape (R161). -/
inductive Instr where
  | w2b
  | b2w
  | b2s
  | s2b
  | qrf
  | qri
  | permf
  | permi
  | build (cw nw : Nat)
  | split (cw nw : Nat)
  | hdrchk
deriving DecidableEq, Repr

end Sys2Proof
end

