-- ==== Sys2Proof/WellFormed.lean ====
section
/-! DEFINITION. Which instructions have an encoding: those whose shape fields fit CMD's 3-bit fields CW and NW
(spec 30_encoding.md R61: "unsigned 0..7"). A shape that fits and is not legal is well formed: R63 leaves that check to
execution. -/

namespace Sys2Proof

/-- R61, R63: the shape fields of BUILD and SPLIT are 0..7; no other operation has a field. -/
def Instr.wf : Instr → Bool
  | .build cw nw => decide (cw < 8) && decide (nw < 8)
  | .split cw nw => decide (cw < 8) && decide (nw < 8)
  | .w2b | .b2w | .b2s | .s2b | .qrf | .qri | .permf | .permi | .hdrchk => true

end Sys2Proof
end

