-- ==== Sys2Proof/Word.lean ====
section
/-! DEFINITION. The data types of the core and the plainest arithmetic on a Word (spec 10_state.md R20-R23,
42_quarter_round.md R120). The spec's own type "State" (16 Words) is called `Words16` here, so that it is not
confused with the machine's state. -/

namespace Sys2Proof

/-- R20: an unsigned 32-bit value. The command word CMD (R61) is 32 bits wide as well. -/
abbrev Word := BitVec 32

/-- R21: an unsigned 8-bit value. -/
abbrev Byte := BitVec 8

/-- R22: the spec's "State", exactly 16 Words, positionally meaningful. -/
abbrev Words16 := Vector Word 16

/-- R23: exactly 64 bytes. -/
abbrev Block := Vector Byte 64

/-- The quadruple (a, b, c, d) a quarter-round takes and gives (R31, R123, R124). -/
structure Quad where
  a : Word
  b : Word
  c : Word
  d : Word
deriving DecidableEq, Repr

/-- R120: `(x + y) mod 2^32`; a sum that does not fit wraps and raises nothing. -/
def add32 (x y : Word) : Word := x + y

/-- R120: `(x - y) mod 2^32`; a difference below zero wraps and raises nothing. -/
def sub32 (x y : Word) : Word := x - y

end Sys2Proof
end

