-- ==== Sys2Proof/Decode.lean ====
section
/-! DEFINITION. The command word: its fields, the decoder, total on all 2^32 values (spec 30_encoding.md R61-R65, R68),
and the encoder (R62, R69). The format has one length and no instruction is fetched from memory (R60, R49): the
decoder's input is the 32-bit CMD port itself. -/

namespace Sys2Proof

/-- R61: `OP = CMD[3:0]`. -/
def fieldOp (cmd : Word) : Nat := (cmd.extractLsb' 0 4).toNat

/-- R61: `CW = CMD[6:4]`. -/
def fieldCw (cmd : Word) : Nat := (cmd.extractLsb' 4 3).toNat

/-- R61: `NW = CMD[9:7]`. -/
def fieldNw (cmd : Word) : Nat := (cmd.extractLsb' 7 3).toNat

/-- R61: `RSVD = CMD[31:10]`. -/
def fieldRsvd (cmd : Word) : Nat := (cmd.extractLsb' 10 22).toNat

/-- Why a CMD is illegal (R65). The unit answers all three alike, with STATUS = ILLEGAL_COMMAND; the names are the
model's (log entry 12). -/
inductive Illegal where
  /-- RSVD is not 0. -/
  | reservedBits
  /-- OP is 0x0 or 0xC..0xF. -/
  | reservedOp
  /-- CW or NW is not 0 on an operation other than BUILD and SPLIT. -/
  | shapeFields
deriving DecidableEq, Repr

/-- R62, R68: `op_of`, the operation an OP value names, with its two shape fields. -/
def opOf (op cw nw : Nat) : Except Illegal Instr :=
  match op with
  | 0x1 => .ok .w2b
  | 0x2 => .ok .b2w
  | 0x3 => .ok .b2s
  | 0x4 => .ok .s2b
  | 0x5 => .ok .qrf
  | 0x6 => .ok .qri
  | 0x7 => .ok .permf
  | 0x8 => .ok .permi
  | 0x9 => .ok (.build cw nw)
  | 0xA => .ok (.split cw nw)
  | 0xB => .ok .hdrchk
  | _ => .error .reservedOp

/-- R68: the decoder, its tests in the order of the rule's pseudocode. -/
def decode (cmd : Word) : Except Illegal Instr :=
  if fieldRsvd cmd ≠ 0 then .error .reservedBits
  else if fieldOp cmd = 0x0 ∨ 0xC ≤ fieldOp cmd then .error .reservedOp
  else if fieldOp cmd = 0x9 ∨ fieldOp cmd = 0xA then opOf (fieldOp cmd) (fieldCw cmd) (fieldNw cmd)
  else if fieldCw cmd ≠ 0 ∨ fieldNw cmd ≠ 0 then .error .shapeFields
  else opOf (fieldOp cmd) 0 0

/-- R62: the OP value of an operation. -/
def opCode : Instr → BitVec 4
  | .w2b => 0x1
  | .b2w => 0x2
  | .b2s => 0x3
  | .s2b => 0x4
  | .qrf => 0x5
  | .qri => 0x6
  | .permf => 0x7
  | .permi => 0x8
  | .build _ _ => 0x9
  | .split _ _ => 0xA
  | .hdrchk => 0xB

/-- R61: the CW field of an operation's command word; 0 where it has no shape fields (R63). -/
def shapeCw : Instr → Nat
  | .build cw _ => cw
  | .split cw _ => cw
  | .w2b | .b2w | .b2s | .s2b | .qrf | .qri | .permf | .permi | .hdrchk => 0

/-- R61: the NW field of an operation's command word; 0 where it has no shape fields (R63). -/
def shapeNw : Instr → Nat
  | .build _ nw => nw
  | .split _ nw => nw
  | .w2b | .b2w | .b2s | .s2b | .qrf | .qri | .permf | .permi | .hdrchk => 0

/-- R61, R69: the command word of a well-formed instruction: RSVD = 0, then NW, CW and OP, the highest field first. -/
def encode (i : Instr) : Word :=
  (0 : BitVec 22) ++ BitVec.ofNat 3 (shapeNw i) ++ BitVec.ofNat 3 (shapeCw i) ++ opCode i

/-- What the decoder reads from the table word `w` of `nbits` bits. A command is one 32-bit word (R60), so a word with a
bit above bit 31 is no command. -/
def decodeTableWord (nbits w : Nat) : Option Instr :=
  if w % 2 ^ nbits < 2 ^ 32 then (decode (BitVec.ofNat 32 (w % 2 ^ nbits))).toOption else none

end Sys2Proof
end

