-- ==== Sys2Proof/Config.lean ====
section
/-! DEFINITION. What an implementation fixes (spec 00_scope.md R6): the capacities of the two operand ports. They are
plain data, held in the machine's state and changed by nothing, so that a statement about every state is a statement
about every capacity. LATENCY (R6, R248) has no counterpart: the model has no time. -/

namespace Sys2Proof

/-- R6: MAXW and MAXB, the most Word lanes and byte lanes a request can present. -/
structure Capacity where
  maxW : Nat
  maxB : Nat
deriving DecidableEq, Repr

/-- R6: the spec's default for both capacities. Log entry 3. -/
def Capacity.standard : Capacity := ⟨255, 255⟩

/-- R6: the bounds of both capacities ("at least 17, at most 255" and "at least 65, at most 255"). -/
structure Capacity.Legal (c : Capacity) : Prop where
  maxW_ge : 17 ≤ c.maxW
  maxW_le : c.maxW ≤ 255
  maxB_ge : 65 ≤ c.maxB
  maxB_le : c.maxB ≤ 255

end Sys2Proof
end

