-- ==== Sys2Proof/Machine/State.lean ====
section
/-! DEFINITION. The machine's state: the ports of the unit (spec 10_state.md R26, R27), the request it has accepted and
not answered (R31, 70_reset_and_hazards.md R240), its hidden working state (R31) and the capacities of its operand ports
(00_scope.md R6), with the values after reset (R33). The spec gives the unit no register file, no program counter, no
flags, no memory, no mode and no interrupt state (R25, R32, R40, R210, R211), so there is no field for any of them. -/

namespace Sys2Proof.Machine

/-- R201: the STATUS names. Their 3-bit codes are `Status.code` (Flags.lean). -/
inductive Status where
  | ok
  | lengthError
  | shapeError
  | recoveryFailure
  | illegalCommand
deriving DecidableEq, Repr

/-- R26: one request: the command word, the Word lanes WIN[0 .. WCNT-1] and the byte lanes BIN[0 .. BCNT-1]. The counts
are the numbers of lanes (`Request.wcnt`, `Request.bcnt`; log entry 2). -/
structure Request where
  cmd : Word
  win : List Word
  bin : List Byte
deriving DecidableEq, Repr

/-- R26: the 8-bit count port WCNT. -/
def Request.wcnt (r : Request) : BitVec 8 := BitVec.ofNat 8 r.win.length

/-- R26: the 8-bit count port BCNT. -/
def Request.bcnt (r : Request) : BitVec 8 := BitVec.ofNat 8 r.bin.length

/-- R27: what the response ports hold: STATUS, the Word lanes WOUT[0 .. WOCNT-1] and the byte lanes
BOUT[0 .. BOCNT-1]. The counts are the numbers of lanes (`Response.wocnt`, `Response.bocnt`; log entry 2). -/
structure Response where
  status : Status
  wout : List Word
  bout : List Byte
deriving DecidableEq, Repr

/-- R27: the 8-bit count port WOCNT. -/
def Response.wocnt (r : Response) : BitVec 8 := BitVec.ofNat 8 r.wout.length

/-- R27: the 8-bit count port BOCNT. -/
def Response.bocnt (r : Response) : BitVec 8 := BitVec.ofNat 8 r.bout.length

/-- The state of one unit and of what its caller drives onto its request ports. -/
structure State where
  /-- R6: MAXW and MAXB of this unit. No operation changes it. -/
  cfg : Capacity
  /-- R26, R33: the request the caller presents on CMD, WIN and BIN and the unit has not accepted; `none` when no
  request is presented. -/
  port : Option Request
  /-- R240, R243: the request the unit has accepted (sampled) and not answered; `none` when the unit is idle. -/
  accepted : Option Request
  /-- R31: the hidden working array x[0..15]; `none` when it has no value (R33). -/
  x : Option Words16
  /-- R31: the hidden quadruple (a, b, c, d); `none` when it has no value (R33). -/
  quad : Option Quad
  /-- R27, R29: the response ports STATUS, WOCNT, WOUT, BOCNT and BOUT; `none` when they hold no value. -/
  resp : Option Response
deriving DecidableEq, Repr

/-- Reasons the model stops or a read fails. -/
inductive Fault where
  /-- Raised by every meaning when it is applied in a state with no accepted request: there is nothing to answer. This is
  93_implementation_defined.md U6, `stuck`: a request abandoned by reset "has no response". `step` never raises it.
  Safe: the model stops. -/
  | noRequest
  /-- Raised by the reads of the response ports (Ops.lean) where the port or lane holds no value (R29, U3-U5), and by
  QRF, QRI, PERMF and PERMI if the hidden working state they deliver from had no value (R33), which none of them does.
  Safe: the model stops. -/
  | noValue
deriving DecidableEq, Repr

/-- Reasons the model turns an input away. -/
inductive Refusal where
  /-- An arm of `exec` with no meaning. No arm of this model raises it. Safe: the model stops. -/
  | notModelled (mnemonic : String)
  /-- Raised by presenting a request with WCNT > MAXW or BCNT > MAXB, and by `step` on a port that holds one: R26, U11,
  "such a request cannot be presented on the ports". Safe: the model stops. -/
  | notPresentable
  /-- Raised by reading a 3-bit STATUS code 5, 6 or 7 (`Status.ofCode`): R201, U7, "a model that meets one must refuse
  it". Safe: the model stops. -/
  | statusOutsideDomain
deriving DecidableEq, Repr

/-- The outcome of one step of the unit. -/
abbrev Result := Host.Outcome State Fault Refusal

/-- R33: the unit right after reset, for given capacities: idle, no working value, no result. R33 says of the request
ports only that the caller drives them; that the caller presents no request yet is the model's initial state (log
entry 18). -/
def State.resetWith (cfg : Capacity) : State :=
  { cfg := cfg, port := none, accepted := none, x := none, quad := none, resp := none }

/-- R33, R6: the unit right after reset, with the spec's default capacities (log entry 3). -/
def State.reset : State := State.resetWith Capacity.standard

end Sys2Proof.Machine
end

