-- ==== Sys2Proof/Machine/Ops.lean ====
section
/-! DEFINITION. The named operations on the ports, the accepted request and the hidden working state: presenting and
accepting a request, answering it (with results or with an error), reading the response ports, and reset. Ending a
request with an error is the ONE operation `raise`: the unit has no traps (spec 60_exceptions.md R208), an error saves
nothing and changes no mode, and there is nothing to return to or to restore afterwards (R209). -/

namespace Sys2Proof.Machine

/-! ### Presenting and accepting a request (R26, R243) -/

/-- R26, U11: the request fits the operand ports. -/
def Request.presentable (cfg : Capacity) (r : Request) : Bool :=
  decide (r.win.length ≤ cfg.maxW) && decide (r.bin.length ≤ cfg.maxB)

/-- R26: the caller presents a request on the request ports (log entry 8). A request with more lanes than the capacity
cannot be presented (U11). -/
def present (r : Request) (s : State) : Result :=
  if r.presentable s.cfg then .next { s with port := some r } else .refused .notPresentable

/-- R29, R31, R243: the unit accepts the request `r`: it samples all of it, and from now until the response the result
ports hold no value (D26). The hidden working state starts with no value. -/
def State.accept (r : Request) (s : State) : State :=
  { s with port := none, accepted := some r, x := none, quad := none, resp := none }

/-- R26, R243: the unit accepts the request on its ports. -/
def acceptPort (r : Request) (s : State) : Result :=
  if r.presentable s.cfg then .next (s.accept r) else .refused .notPresentable

/-! ### Answering it (R27, R200, R207) -/

/-- R27, R31: the response `rsp` is delivered: the request is done and nothing of the hidden working state survives. -/
def State.answered (rsp : Response) (s : State) : State :=
  { s with accepted := none, x := none, quad := none, resp := some rsp }

/-- R27: STATUS = OK with Word results only; the byte count is 0. -/
def Response.words (ws : List Word) : Response := { status := .ok, wout := ws, bout := [] }

/-- R27: STATUS = OK with byte results only; the Word count is 0. -/
def Response.bytes (bs : List Byte) : Response := { status := .ok, wout := [], bout := bs }

/-- R164: STATUS = OK with no result lanes. -/
def Response.nothing : Response := { status := .ok, wout := [], bout := [] }

/-- R207: an error response carries STATUS and WOCNT = BOCNT = 0. -/
def Response.error (e : Status) : Response := { status := e, wout := [], bout := [] }

/-- R9 `return`: the request ends with STATUS = OK and the given results. -/
def respond (rsp : Response) (s : State) : Result := .next (s.answered rsp)

/-- R9 `raise`, R200, R207, R208: the request ends with STATUS = `e` and no result lane. -/
def raise (e : Status) (s : State) : Result := .next (s.answered (Response.error e))

/-! ### The hidden working state (R31) -/

/-- R145, R146: `x[i] <- WIN[i]` for i = 0..15. -/
def State.loadArray (v : Words16) (s : State) : State := { s with x := some v }

/-- R31: the working array is replaced by what `f` makes of it; an array with no value keeps none. -/
def State.mapArray (f : Words16 → Words16) (s : State) : State := { s with x := s.x.map f }

/-- R145, R146: `WOUT[i] <- x[i]` for i = 0..15, WOCNT = 16. -/
def deliverArray (s : State) : Result :=
  match s.x with
  | none => .fault .noValue
  | some v => respond (Response.words v.toList) s

/-- R123, R124: the four lanes become the quadruple (a, b, c, d). -/
def State.loadQuad (q : Quad) (s : State) : State := { s with quad := some q }

/-- R31: the quadruple is replaced by what `f` makes of it; a quadruple with no value keeps none. -/
def State.mapQuad (f : Quad → Quad) (s : State) : State := { s with quad := s.quad.map f }

/-- R123, R124: `WOUT[0..3] <- (a, b, c, d)`, WOCNT = 4. -/
def deliverQuad (s : State) : Result :=
  match s.quad with
  | none => .fault .noValue
  | some q => respond (Response.words [q.a, q.b, q.c, q.d]) s

/-! ### Reading the response ports (R27, R29, U3-U5) -/

/-- R29: the response the ports hold; a read while they hold no value faults. -/
def readResponse (s : State) : Except Fault Response :=
  match s.resp with
  | none => .error .noValue
  | some rsp => .ok rsp

/-- R27: the STATUS port. -/
def readStatus (s : State) : Except Fault Status := (readResponse s).map Response.status

/-- R27: the WOCNT port. -/
def readWocnt (s : State) : Except Fault (BitVec 8) := (readResponse s).map Response.wocnt

/-- R27: the BOCNT port. -/
def readBocnt (s : State) : Except Fault (BitVec 8) := (readResponse s).map Response.bocnt

/-- The lane at an index below the count; at or above it the lane holds no value (R29, D25). -/
def laneAt {α : Type} (lanes : List α) (i : Nat) : Except Fault α :=
  match lanes[i]? with
  | none => .error .noValue
  | some v => .ok v

/-- R27, R29: the Word result lane WOUT[i]. -/
def readWout (i : Nat) (s : State) : Except Fault Word :=
  match readResponse s with
  | .error f => .error f
  | .ok rsp => laneAt rsp.wout i

/-- R27, R29: the byte result lane BOUT[i]. -/
def readBout (i : Nat) (s : State) : Except Fault Byte :=
  match readResponse s with
  | .error f => .error f
  | .ok rsp => laneAt rsp.bout i

/-! ### Reset and the loading of a command -/

/-- R240: reset, at any time: a request in progress is abandoned, the working array is lost, the result ports hold no
value and the unit is idle. What the caller drives onto the request ports is the caller's (R33; log entry 7). -/
def State.assertReset (s : State) : State :=
  { s with accepted := none, x := none, quad := none, resp := none }

/-- The unit with the command word `cmd` accepted and waiting to be answered: the operands are those of the request in
progress, else those of the request on the ports, which is then accepted, else none at all (log entry 9). -/
def State.loadCommand (cmd : Word) (s : State) : State :=
  match s.accepted with
  | some r => { s with accepted := some { r with cmd := cmd } }
  | none =>
    match s.port with
    | some r => s.accept { r with cmd := cmd }
    | none => s.accept { cmd := cmd, win := [], bin := [] }

end Sys2Proof.Machine
end

