-- ==== Sys2Proof/Machine/Flags.lean ====
section
/-! DEFINITION. The one condition output, STATUS (spec 10_state.md R27; the unit has no condition flags, R32): its codes
(60_exceptions.md R201), and the two value checks that decide it besides the counts: the shape check
(44_state_builder.md R161) and the header check (R164). -/

namespace Sys2Proof.Machine

/-- R201: the 3-bit code of a STATUS name. -/
def Status.code : Status → BitVec 3
  | .ok => 0
  | .lengthError => 1
  | .shapeError => 2
  | .recoveryFailure => 3
  | .illegalCommand => 4

/-- R201, U7: the name of a 3-bit STATUS code; the codes 5, 6 and 7 are never produced, and the model refuses them. -/
def Status.ofCode (c : BitVec 3) : Except Refusal Status :=
  match c.toNat with
  | 0 => .ok .ok
  | 1 => .ok .lengthError
  | 2 => .ok .shapeError
  | 3 => .ok .recoveryFailure
  | 4 => .ok .illegalCommand
  | _ => .error .statusOutsideDomain

/-- R27, R201: the three bits on the STATUS port. -/
def readStatusCode (s : State) : Except Fault (BitVec 3) := (readStatus s).map Status.code

/-- R161: `shape_ok(C, N) = (C + N == 4) and (C in {1, 2})`. -/
def shapeOk (c n : Nat) : Bool := decide (c + n = 4) && (decide (c = 1) || decide (c = 2))

/-- R28: the hardwired header constant HDR, "expand 32-byte k" in little-endian Words. It is a constant, not state. -/
def hdr : Vector Word 4 := #v[0x61707865, 0x3320646E, 0x79622D32, 0x6B206574]

/-- R164: the first four Words are HDR; words 4-15 are not examined. -/
def headerOk (v : Words16) : Bool :=
  decide (v[0] = hdr[0]) && decide (v[1] = hdr[1]) && decide (v[2] = hdr[2]) && decide (v[3] = hdr[3])

end Sys2Proof.Machine
end

