-- ==== Sys2Proof/Machine/Operands.lean ====
section
/-! DEFINITION. The operand forms (spec 30_encoding.md R66): every operation reads one port, whole, and needs an exact
number of lanes on it. The other port is ignored: neither its count nor its lanes are looked at (10_state.md R26, D10).
A wrong count ends the request with LENGTH_ERROR (60_exceptions.md R202). -/

namespace Sys2Proof.Machine

/-- The lanes as a sequence of exactly `n` elements, or `none` if the count differs from `n`. -/
def laneVector {α : Type} (n : Nat) (lanes : List α) : Option (Vector α n) :=
  if h : lanes.length = n then some ⟨lanes.toArray, by simpa using h⟩ else none

/-- The request in progress, on which every meaning works. Without one there is nothing to answer (U6; log entry 10). -/
def withRequest (s : State) (k : Request → Result) : Result :=
  match s.accepted with
  | none => .fault .noRequest
  | some r => k r

/-- R66, R202: the operation reads `n` Word lanes: LENGTH_ERROR unless WCNT = `n`. -/
def withWords (n : Nat) (s : State) (k : Vector Word n → Result) : Result :=
  withRequest s fun r =>
    match laneVector n r.win with
    | none => raise .lengthError s
    | some v => k v

/-- R66, R202: the operation reads `n` byte lanes: LENGTH_ERROR unless BCNT = `n`. -/
def withBytes (n : Nat) (s : State) (k : Vector Byte n → Result) : Result :=
  withRequest s fun r =>
    match laneVector n r.bin with
    | none => raise .lengthError s
    | some v => k v

end Sys2Proof.Machine
end

