-- ==== Sys2Proof/Machine/Builder.lean ====
section
/-! DEFINITION. The state builder, chacha20_state_builder (spec 44_state_builder.md): BUILD, SPLIT and HDRCHK. The
checks run in the order of 60_exceptions.md R206: the shape, then the count, then the header. -/

namespace Sys2Proof.Machine

/-- R160, R162 `buildState`: the header, then the key, counter and nonce words as they stand on the lanes. -/
def buildLanes (lanes : List Word) : List Word := hdr.toList ++ lanes

/-- R160, R163 `splitState`: words 4-15: key, counter, nonce. -/
def splitLanes (v : Words16) : List Word := v.toList.drop 4

/-- R162: `8 + C + N` Word lanes; the shape is checked before the count. -/
def execBuild (cw nw : Nat) (s : State) : Result :=
  withRequest s fun _ =>
    if shapeOk cw nw then withWords (8 + cw + nw) s fun v => respond (Response.words (buildLanes v.toList)) s
    else raise .shapeError s

/-- R163: the shape is checked before the count; the header is not looked at. -/
def execSplit (cw nw : Nat) (s : State) : Result :=
  withRequest s fun _ =>
    if shapeOk cw nw then withWords 16 s fun v => respond (Response.words (splitLanes v)) s
    else raise .shapeError s

/-- R164: OK with no result lanes, or RECOVERY_FAILURE. -/
def execHdrchk (s : State) : Result :=
  withWords 16 s fun v => if headerOk v then respond Response.nothing s else raise .recoveryFailure s

end Sys2Proof.Machine
end

