-- ==== Sys2Proof/Machine/Codec.lean ====
section
/-! DEFINITION. The word codec, chacha20_state_codec (spec 41_word_codec.md): W2B, B2W, B2S, S2B, in the little-endian
order of 20_memory.md R41 and the grouping of R42. -/

namespace Sys2Proof.Machine

/-- R41: byte i of a Word is `w[8i+7:8i]`. -/
def byteOf (w : Word) (i : Nat) : Byte := w.extractLsb' (8 * i) 8

/-- R41, R101 `wordToBytes`: the four bytes of a Word, the least significant first. -/
def wordToBytes (w : Word) : Vector Byte 4 := #v[byteOf w 0, byteOf w 1, byteOf w 2, byteOf w 3]

/-- R41, R102 `bytesToWord`: `b0 | b1 << 8 | b2 << 16 | b3 << 24`. -/
def bytesToWord (b : Vector Byte 4) : Word :=
  b[0].setWidth 32 ||| (b[1].setWidth 32 <<< 8) ||| (b[2].setWidth 32 <<< 16) ||| (b[3].setWidth 32 <<< 24)

/-- R42, R103 `blockToState`: Word i is bytes 4i .. 4i+3 of the Block. -/
def blockToState (b : Block) : Words16 :=
  Vector.ofFn fun i : Fin 16 => bytesToWord #v[b[4 * i.val], b[4 * i.val + 1], b[4 * i.val + 2], b[4 * i.val + 3]]

/-- R42, R104 `stateToBlock`: byte 4i+j of the Block is byte j of Word i. -/
def stateToBlock (v : Words16) : Block :=
  Vector.ofFn fun k : Fin 64 => byteOf v[k.val / 4] (k.val % 4)

/-- R101. -/
def execW2b (s : State) : Result :=
  withWords 1 s fun v => respond (Response.bytes (wordToBytes v[0]).toList) s

/-- R102. -/
def execB2w (s : State) : Result :=
  withBytes 4 s fun b => respond (Response.words [bytesToWord b]) s

/-- R103. -/
def execB2s (s : State) : Result :=
  withBytes 64 s fun b => respond (Response.words (blockToState b).toList) s

/-- R104. -/
def execS2b (s : State) : Result :=
  withWords 16 s fun v => respond (Response.bytes (stateToBlock v).toList) s

end Sys2Proof.Machine
end

