-- ==== Sys2Proof/Machine/QuarterRound.lean ====
section
/-! DEFINITION. Rotations and the quarter-round (spec 42_quarter_round.md): QRF (chacha20_quarter_round_fwd) and QRI
(chacha20_quarter_round_inv). -/

namespace Sys2Proof.Machine

/-- R121: rotate left by `n` bits, the amount reduced mod 32; by 0 it is the identity. -/
def rotl32 (x : Word) (n : Int) : Word :=
  let m := (n % 32).toNat
  if m = 0 then x else (x <<< m) ||| (x >>> (32 - m))

/-- R122: `rotr32(x, n) = rotl32(x, (32 - n) mod 32)`. -/
def rotr32 (x : Word) (n : Int) : Word := rotl32 x ((32 - n) % 32)

/-- R123: the forward quarter-round, statement by statement (R10). -/
def quarterRoundForward (q : Quad) : Quad :=
  let a := add32 q.a q.b
  let d := rotl32 (q.d ^^^ a) 16
  let c := add32 q.c d
  let b := rotl32 (q.b ^^^ c) 12
  let a := add32 a b
  let d := rotl32 (d ^^^ a) 8
  let c := add32 c d
  let b := rotl32 (b ^^^ c) 7
  ⟨a, b, c, d⟩

/-- R124: the inverse quarter-round, statement by statement (R10). -/
def quarterRoundInverse (q : Quad) : Quad :=
  let b := rotr32 q.b 7 ^^^ q.c
  let c := sub32 q.c q.d
  let d := rotr32 q.d 8 ^^^ q.a
  let a := sub32 q.a b
  let b := rotr32 b 12 ^^^ c
  let c := sub32 c d
  let d := rotr32 d 16 ^^^ a
  let a := sub32 a b
  ⟨a, b, c, d⟩

/-- R123. -/
def execQrf (s : State) : Result :=
  withWords 4 s fun v => deliverQuad ((s.loadQuad ⟨v[0], v[1], v[2], v[3]⟩).mapQuad quarterRoundForward)

/-- R124. -/
def execQri (s : State) : Result :=
  withWords 4 s fun v => deliverQuad ((s.loadQuad ⟨v[0], v[1], v[2], v[3]⟩).mapQuad quarterRoundInverse)

end Sys2Proof.Machine
end

