-- ==== Sys2Proof/Machine/Permutation.lean ====
section
/-! DEFINITION. The permutation engine (spec 43_permutation.md): PERMF (chacha20_permutation_fwd) and PERMI
(chacha20_permutation_inv). -/

namespace Sys2Proof.Machine

/-- R141, R142: an ordered quadruple of indices of the working array. -/
structure LaneGroup where
  ia : Fin 16
  ib : Fin 16
  ic : Fin 16
  id : Fin 16
deriving DecidableEq, Repr

/-- R141: COL0 .. COL3. -/
def columns : List LaneGroup := [⟨0, 4, 8, 12⟩, ⟨1, 5, 9, 13⟩, ⟨2, 6, 10, 14⟩, ⟨3, 7, 11, 15⟩]

/-- R142: DIAG0 .. DIAG3. -/
def diagonals : List LaneGroup := [⟨0, 5, 10, 15⟩, ⟨1, 6, 11, 12⟩, ⟨2, 7, 8, 13⟩, ⟨3, 4, 9, 14⟩]

/-- R10, R143, R144, R246: one quarter-round in place: `(x[ia], x[ib], x[ic], x[id]) <- f(x[ia], x[ib], x[ic], x[id])`,
all four words read before any is written. -/
def applyGroup (f : Quad → Quad) (x : Words16) (g : LaneGroup) : Words16 :=
  let q := f ⟨x[g.ia], x[g.ib], x[g.ic], x[g.id]⟩
  (((x.set g.ia q.a).set g.ib q.b).set g.ic q.c).set g.id q.d

/-- R143, R144: the quarter-rounds of one step, group by group. -/
def applyGroups (f : Quad → Quad) (gs : List LaneGroup) (x : Words16) : Words16 := gs.foldl (applyGroup f) x

/-- R143 `DRF`: the column step, then the diagonal step. -/
def doubleRoundForward (x : Words16) : Words16 :=
  applyGroups quarterRoundForward diagonals (applyGroups quarterRoundForward columns x)

/-- R144 `DRI`: the diagonal step undone, then the column step. -/
def doubleRoundInverse (x : Words16) : Words16 :=
  applyGroups quarterRoundInverse columns (applyGroups quarterRoundInverse diagonals x)

/-- R140: the number of double rounds, fixed. -/
def doubleRounds : Nat := 10

/-- R145 `forwardPermute`: ten double rounds and no final addition of the input (R147). -/
def forwardPermute (x : Words16) : Words16 := doubleRoundForward^[doubleRounds] x

/-- R146 `inversePermute`: ten reverse double rounds. -/
def inversePermute (x : Words16) : Words16 := doubleRoundInverse^[doubleRounds] x

/-- R145. -/
def execPermf (s : State) : Result :=
  withWords 16 s fun v => deliverArray ((s.loadArray v).mapArray forwardPermute)

/-- R146. -/
def execPermi (s : State) : Result :=
  withWords 16 s fun v => deliverArray ((s.loadArray v).mapArray inversePermute)

end Sys2Proof.Machine
end

