-- ==== Sys2Proof/Machine/Dispatch.lean ====
section
/-! DEFINITION. What each instruction does to the state in which its request has been accepted: one arm per constructor
of Instr, each a direct call of its meaning (spec 30_encoding.md R62). -/

namespace Sys2Proof.Machine

def exec (i : Instr) (s : State) : Host.Outcome State Fault Refusal :=
  match i with
  | .w2b => Sys2Proof.Machine.execW2b s
  | .b2w => Sys2Proof.Machine.execB2w s
  | .b2s => Sys2Proof.Machine.execB2s s
  | .s2b => Sys2Proof.Machine.execS2b s
  | .qrf => Sys2Proof.Machine.execQrf s
  | .qri => Sys2Proof.Machine.execQri s
  | .permf => Sys2Proof.Machine.execPermf s
  | .permi => Sys2Proof.Machine.execPermi s
  | .build cw nw => Sys2Proof.Machine.execBuild cw nw s
  | .split cw nw => Sys2Proof.Machine.execSplit cw nw s
  | .hdrchk => Sys2Proof.Machine.execHdrchk s

end Sys2Proof.Machine
end

