-- ==== Sys2Proof/Machine/Step.lean ====
section
/-! DEFINITION. One step of the unit (log entry 1). A unit with a request in progress answers it: it decodes the sampled
CMD and runs the operation, or ends the request with ILLEGAL_COMMAND (spec 30_encoding.md R68, 60_exceptions.md R205,
R206). An idle unit accepts the request its ports present (10_state.md R26). An idle unit with no request presented
waits. Requests are therefore answered one at a time, in the order they were accepted (20_memory.md R46). -/

namespace Sys2Proof.Machine

def step (s : State) : Host.Outcome State Fault Refusal :=
  match s.accepted with
  | some r =>
    match decode r.cmd with
    | .ok i => exec i s
    | .error _ => raise .illegalCommand s
  | none =>
    match s.port with
    | some r => acceptPort r s
    | none => .next s

/-- The state with the command word `w` (its low `nbits` bits) accepted, so that the very next step decodes and runs it
(log entry 9). -/
def State.withFetchWord (s : State) (nbits w : Nat) : State := s.loadCommand (BitVec.ofNat 32 (w % 2 ^ nbits))

end Sys2Proof.Machine
end

