-- ==== Sys2Proof/Machine/Run.lean ====
section
/-! DEFINITION. What a caller does with one unit: it presents a request, lets the unit run, and reads the response (spec
20_memory.md R46, 70_reset_and_hazards.md R244); and the observation of a run, the sequence of responses (R249). -/

namespace Sys2Proof.Machine

/-- First `o`, then `k` on what it leaves; a fault or a refusal ends the whole. -/
def andThen {α β : Type} (o : Host.Outcome α Fault Refusal) (k : α → Host.Outcome β Fault Refusal) :
    Host.Outcome β Fault Refusal :=
  match o with
  | .next a => k a
  | .fault f => .fault f
  | .refused r => .refused r

/-- `n` steps of the unit; a fault or a refusal ends them. -/
def steps : Nat → State → Result
  | 0, s => .next s
  | n + 1, s => andThen (step s) (steps n)

/-- The unit has nothing to do: it is idle and no request is presented. -/
def State.quiet (s : State) : Bool := s.accepted.isNone && s.port.isNone

/-- At most `n` steps, until the unit has nothing to do. -/
def settle : Nat → State → Result
  | 0, s => .next s
  | n + 1, s => if s.quiet then .next s else andThen (step s) (settle n)

/-- One request and its response: the caller presents `r` and reads the response ports once the unit has nothing more to
do (log entry 17). Three steps are enough: one to answer a request already in progress, one to accept `r`, one to answer
it. -/
def transact (r : Request) (s : State) : Host.Outcome (State × Response) Fault Refusal :=
  andThen (present r s) fun s₁ =>
    andThen (settle 3 s₁) fun s₂ =>
      match readResponse s₂ with
      | .error f => .fault f
      | .ok rsp => .next (s₂, rsp)

/-- R249: a run, a finite sequence of requests, each issued after the response to the one before, and its observation,
the sequence of responses. -/
def observe : List Request → State → Host.Outcome (State × List Response) Fault Refusal
  | [], s => .next (s, [])
  | r :: rs, s =>
    andThen (transact r s) fun p =>
      andThen (observe rs p.1) fun q => .next (q.1, p.2 :: q.2)

end Sys2Proof.Machine
end

