-- ==== Sys2Proof/Machine/Assembler.lean ====
section
/-! DEFINITION. Requests in their textual form, once parsed (spec 30_encoding.md R69), the pseudo-instructions (R70), and
the caller that issues the lines of a program one after another and copies earlier results into later operands (R244).
None of it is part of the unit. HOST lines assemble to nothing; what the caller computes in them is outside this
hardware (00_scope.md R5). The characters of a line are read in AsmText.lean. -/

namespace Sys2Proof.Machine

/-- R69: the mnemonics. -/
inductive Op where
  | w2b
  | b2w
  | b2s
  | s2b
  | qrf
  | qri
  | permf
  | permi
  | build
  | split
  | hdrchk
deriving DecidableEq, Repr

/-- A label of a line (R69). -/
abbrev Label := List Char

/-- R69 `operands`: Word lanes, byte lanes, or the WOUT or BOUT lanes of an earlier labelled request. -/
inductive Operands where
  | words (ws : List Word)
  | bytes (bs : List Byte)
  | woutOf (l : Label)
  | boutOf (l : Label)
deriving DecidableEq, Repr

/-- R69 `line`: one request. -/
structure Line where
  label : Option Label
  op : Op
  shape : Option (Nat × Nat)
  operands : Option Operands
deriving DecidableEq, Repr

/-- R70: the pseudo-instructions. -/
inductive Pseudo where
  | keystream (o : Operands)
  | recover (o : Operands)
  | nextState (shape : Option (Nat × Nat)) (o : Operands)
deriving DecidableEq, Repr

/-- A line of a program: a request, a pseudo-instruction, or a caller step `HOST <text>` (R69). -/
inductive Stmt where
  | request (l : Line)
  | pseudo (p : Pseudo)
  | host (text : List Char)
deriving DecidableEq, Repr

/-- Why a line does not assemble. -/
inductive AsmError where
  /-- R69: a shape on a mnemonic other than BUILD and SPLIT. -/
  | shapeNotAllowed
  /-- A shape digit that does not fit the 3-bit field of R61: the grammar of R69 admits the digits 8 and 9 and says
  nothing of them, so this error is the model's choice (log entry 20). -/
  | shapeTooWide
  /-- R69: `%label` names no earlier labelled request. -/
  | unknownLabel
  /-- R69: the text is no line of the grammar. -/
  | malformed
deriving DecidableEq, Repr

/-- R69, D13: the operation of a line; BUILD and SPLIT without a shape have CW = 2 and NW = 2. -/
def instrOf (op : Op) (shape : Option (Nat × Nat)) : Except AsmError Instr :=
  let plain (i : Instr) : Except AsmError Instr := if shape.isSome then .error .shapeNotAllowed else .ok i
  let cn := shape.getD (2, 2)
  match op with
  | .w2b => plain .w2b
  | .b2w => plain .b2w
  | .b2s => plain .b2s
  | .s2b => plain .s2b
  | .qrf => plain .qrf
  | .qri => plain .qri
  | .permf => plain .permf
  | .permi => plain .permi
  | .build => .ok (.build cn.1 cn.2)
  | .split => .ok (.split cn.1 cn.2)
  | .hdrchk => plain .hdrchk

/-- R69: the command word of a line. A shape digit over 7 has no place in its field of R61 and assembles to nothing (log
entry 20). -/
def assembleCommand (op : Op) (shape : Option (Nat × Nat)) : Except AsmError Word :=
  match instrOf op shape with
  | .error e => .error e
  | .ok i => if i.wf then .ok (encode i) else .error .shapeTooWide

/-- The responses of the labelled requests issued so far, the newest first. -/
abbrev Env := List (Label × Response)

/-- R69: the response of the newest earlier request with this label (log entry 15). -/
def lookupLabel (l : Label) : Env → Except AsmError Response
  | [] => .error .unknownLabel
  | (k, rsp) :: env => if k = l then .ok rsp else lookupLabel l env

/-- R69: the operand lanes a line presents: the Word lanes and the byte lanes. -/
def operandLanes (env : Env) : Option Operands → Except AsmError (List Word × List Byte)
  | none => .ok ([], [])
  | some (.words ws) => .ok (ws, [])
  | some (.bytes bs) => .ok ([], bs)
  | some (.woutOf l) => (lookupLabel l env).map fun rsp => (rsp.wout, [])
  | some (.boutOf l) => (lookupLabel l env).map fun rsp => ([], rsp.bout)

/-- R69: the request a line assembles to. -/
def assemble (env : Env) (l : Line) : Except AsmError Request :=
  match assembleCommand l.op l.shape with
  | .error e => .error e
  | .ok cmd =>
    match operandLanes env l.operands with
    | .error e => .error e
    | .ok (ws, bs) => .ok { cmd := cmd, win := ws, bin := bs }

/-- R70: the requests a pseudo-instruction expands into, with the labels of the rule's table (log entry 15). R70 gives
NEXTSTATE with a shape only; without one it expands to a BUILD without one, so to c2n2, the model's choice (log entry
19). -/
def Pseudo.expand : Pseudo → List Line
  | .keystream o =>
    [{ label := some ['t'], op := .permf, shape := none, operands := some o },
     { label := none, op := .s2b, shape := none, operands := some (.woutOf ['t']) }]
  | .recover o =>
    [{ label := some ['u'], op := .b2s, shape := none, operands := some o },
     { label := some ['v'], op := .permi, shape := none, operands := some (.woutOf ['u']) },
     { label := none, op := .hdrchk, shape := none, operands := some (.woutOf ['v']) },
     { label := none, op := .split, shape := some (2, 2), operands := some (.woutOf ['v']) }]
  | .nextState shape o =>
    [{ label := none, op := .build, shape := shape, operands := some o }]

/-- A caller with one unit: the unit, the labelled responses it has copied, and all responses so far, oldest first. -/
structure Caller where
  unit : State
  env : Env
  log : List Response
deriving DecidableEq, Repr

/-- A caller that has issued nothing yet. -/
def Caller.start (s : State) : Caller := { unit := s, env := [], log := [] }

/-- Why a program stops before its end: a line that does not assemble, or an outcome of the unit. -/
inductive Stop where
  | assembly (e : AsmError)
  | fault (f : Fault)
  | refused (r : Refusal)
deriving DecidableEq, Repr

/-- What the caller keeps of the response `rsp` of the line `l`. -/
def Caller.record (c : Caller) (l : Line) (s : State) (rsp : Response) : Caller :=
  { unit := s,
    env := match l.label with
      | none => c.env
      | some k => (k, rsp) :: c.env,
    log := c.log ++ [rsp] }

/-- R69: the caller issues one line and copies its response. -/
def runLine (l : Line) (c : Caller) : Except Stop (Caller × Response) :=
  match assemble c.env l with
  | .error e => .error (.assembly e)
  | .ok r =>
    match transact r c.unit with
    | .next (s, rsp) => .ok (c.record l s rsp, rsp)
    | .fault f => .error (.fault f)
    | .refused f => .error (.refused f)

/-- R70: the lines of an expansion, in order; the first STATUS that is not OK ends it and is its result. -/
def runExpansion : List Line → Caller → Except Stop (Caller × Status)
  | [], c => .ok (c, .ok)
  | l :: ls, c =>
    match runLine l c with
    | .error e => .error e
    | .ok (c', rsp) => if rsp.status = .ok then runExpansion ls c' else .ok (c', rsp.status)

/-- R70: a pseudo-instruction is its expansion. -/
def runPseudo (p : Pseudo) (c : Caller) : Except Stop (Caller × Status) := runExpansion p.expand c

/-- R69, R70: one line of a program. A HOST line is no request. The STATUS a line ends with is in the log and decides
nothing here (log entry 21). -/
def runStmt (st : Stmt) (c : Caller) : Except Stop Caller :=
  match st with
  | .request l => (runLine l c).map Prod.fst
  | .pseudo p => (runPseudo p c).map Prod.fst
  | .host _ => .ok c

/-- A program: its lines in order. 60_exceptions.md R208 leaves to the caller what follows a STATUS that is not OK; that
this caller always goes on with the next line, also after a pseudo-instruction that stopped early, and ends at a line
that does not assemble, is the model's choice (log entry 21). -/
def runProgram : List Stmt → Caller → Except Stop Caller
  | [], c => .ok c
  | st :: sts, c =>
    match runStmt st c with
    | .error e => .error e
    | .ok c' => runProgram sts c'

end Sys2Proof.Machine
end

