-- ==== Sys2Proof/Machine/AsmText.lean ====
section
/-! DEFINITION. The characters of a program line (spec 30_encoding.md R69): its tokens and its parse. What the grammar
leaves open (blanks, the characters of a label, the number of digits) is log entry 14. -/

namespace Sys2Proof.Machine

/-- The tokens of a line. -/
inductive Tok where
  | colon
  | dot
  | comma
  | percent
  | openBrace
  | closeBrace
  | openBracket
  | closeBracket
  /-- a run of letters, digits and underscores: a label, a mnemonic, a shape or a number -/
  | name (cs : List Char)
deriving DecidableEq, Repr

/-- Letters, digits and the underscore. -/
def isNameChar (c : Char) : Bool := c.isAlphanum || c == '_'

/-- A space or a tab. -/
def isBlank (c : Char) : Bool := c == ' ' || c == '\t'

/-- The one-character tokens; the two braces are the characters 123 and 125. -/
def punctuation (c : Char) : Option Tok :=
  match c.toNat with
  | 58 => some .colon
  | 46 => some .dot
  | 44 => some .comma
  | 37 => some .percent
  | 123 => some .openBrace
  | 125 => some .closeBrace
  | 91 => some .openBracket
  | 93 => some .closeBracket
  | _ => none

/-- The name read so far (its characters in reverse) before the tokens that follow it. -/
def flushName (cur : List Char) (ts : List Tok) : List Tok := if cur.isEmpty then ts else .name cur.reverse :: ts

/-- The tokens of a line; `cur` is the name being read, in reverse. -/
def tokens (cur : List Char) : List Char → Except AsmError (List Tok)
  | [] => .ok (flushName cur [])
  | c :: cs =>
    if isNameChar c then tokens (c :: cur) cs
    else
      match tokens [] cs with
      | .error e => .error e
      | .ok ts =>
        if isBlank c then .ok (flushName cur ts)
        else
          match punctuation c with
          | some t => .ok (flushName cur (t :: ts))
          | none => .error .malformed

/-- The value of a hexadecimal digit, in either case. -/
def hexDigit (c : Char) : Option Nat :=
  if 48 ≤ c.toNat ∧ c.toNat ≤ 57 then some (c.toNat - 48)
  else if 97 ≤ c.toNat ∧ c.toNat ≤ 102 then some (c.toNat - 87)
  else if 65 ≤ c.toNat ∧ c.toNat ≤ 70 then some (c.toNat - 55)
  else none

/-- The value of a decimal digit. -/
def decDigit (c : Char) : Option Nat :=
  if 48 ≤ c.toNat ∧ c.toNat ≤ 57 then some (c.toNat - 48) else none

/-- The number a run of digits stands for, the most significant first; `acc` is the number read so far. -/
def digits (base : Nat) (digit : Char → Option Nat) (acc : Nat) : List Char → Option Nat
  | [] => some acc
  | c :: cs =>
    match digit c with
    | none => none
    | some d => digits base digit (acc * base + d) cs

/-- R69 `word`: `0x` and eight hexadecimal digits, or a decimal number that is a Word (R20). -/
def parseWord (cs : List Char) : Option Word :=
  match cs with
  | '0' :: 'x' :: hs => if hs.length = 8 then (digits 16 hexDigit 0 hs).map (BitVec.ofNat 32) else none
  | [] => none
  | ds =>
    match digits 10 decDigit 0 ds with
    | none => none
    | some n => if n < 2 ^ 32 then some (BitVec.ofNat 32 n) else none

/-- R69 `byte`: two hexadecimal digits. -/
def parseByte (cs : List Char) : Option Byte :=
  if cs.length = 2 then (digits 16 hexDigit 0 cs).map (BitVec.ofNat 8) else none

/-- R69: `word (',' word)* '}'`, and the end of the line. -/
def parseWords : List Tok → Option (List Word)
  | [.name w, .closeBrace] => (parseWord w).map ([·])
  | .name w :: .comma :: ts =>
    match parseWord w, parseWords ts with
    | some v, some vs => some (v :: vs)
    | _, _ => none
  | _ => none

/-- R69: `byte (' ' byte)* ']'`, and the end of the line. -/
def parseBytes : List Tok → Option (List Byte)
  | [.name b, .closeBracket] => (parseByte b).map ([·])
  | .name b :: ts =>
    match parseByte b, parseBytes ts with
    | some v, some vs => some (v :: vs)
    | _, _ => none
  | _ => none

/-- R69 `operands`, if any, and the end of the line. -/
def parseOperands : List Tok → Except AsmError (Option Operands)
  | [] => .ok none
  | .openBrace :: ts =>
    match parseWords ts with
    | some ws => .ok (some (.words ws))
    | none => .error .malformed
  | .openBracket :: ts =>
    match parseBytes ts with
    | some bs => .ok (some (.bytes bs))
    | none => .error .malformed
  | [.percent, .name l, .dot, .name ['w']] => .ok (some (.woutOf l))
  | [.percent, .name l, .dot, .name ['b']] => .ok (some (.boutOf l))
  | _ => .error .malformed

/-- R69 `shape`: `.c` digit `n` digit, if it stands there, and the tokens after it. -/
def parseShape : List Tok → Except AsmError (Option (Nat × Nat) × List Tok)
  | .dot :: .name ['c', c, 'n', n] :: ts =>
    match decDigit c, decDigit n with
    | some cw, some nw => .ok (some (cw, nw), ts)
    | _, _ => .error .malformed
  | .dot :: _ => .error .malformed
  | ts => .ok (none, ts)

/-- R69 `mnemonic`. -/
def mnemonicOp (cs : List Char) : Option Op :=
  if cs = ['W', '2', 'B'] then some .w2b
  else if cs = ['B', '2', 'W'] then some .b2w
  else if cs = ['B', '2', 'S'] then some .b2s
  else if cs = ['S', '2', 'B'] then some .s2b
  else if cs = ['Q', 'R', 'F'] then some .qrf
  else if cs = ['Q', 'R', 'I'] then some .qri
  else if cs = ['P', 'E', 'R', 'M', 'F'] then some .permf
  else if cs = ['P', 'E', 'R', 'M', 'I'] then some .permi
  else if cs = ['B', 'U', 'I', 'L', 'D'] then some .build
  else if cs = ['S', 'P', 'L', 'I', 'T'] then some .split
  else if cs = ['H', 'D', 'R', 'C', 'H', 'K'] then some .hdrchk
  else none

/-- R70: a pseudo-instruction by its name. NEXTSTATE alone takes a shape, and a NEXTSTATE without one is accepted, the
model's choice (log entry 19). -/
def pseudoOf (cs : List Char) (shape : Option (Nat × Nat)) (o : Operands) : Except AsmError Pseudo :=
  if cs = ['N', 'E', 'X', 'T', 'S', 'T', 'A', 'T', 'E'] then .ok (.nextState shape o)
  else if shape.isSome then .error .shapeNotAllowed
  else if cs = ['K', 'E', 'Y', 'S', 'T', 'R', 'E', 'A', 'M'] then .ok (.keystream o)
  else if cs = ['R', 'E', 'C', 'O', 'V', 'E', 'R'] then .ok (.recover o)
  else .error .malformed

/-- R69: a mnemonic, a shape and operands, after the label. A pseudo-instruction takes no label (log entry 15). -/
def parseHead (label : Option Label) : List Tok → Except AsmError Stmt
  | .name m :: ts =>
    match parseShape ts with
    | .error e => .error e
    | .ok (shape, rest) =>
      match parseOperands rest with
      | .error e => .error e
      | .ok o =>
        match mnemonicOp m with
        | some op => .ok (.request { label := label, op := op, shape := shape, operands := o })
        | none =>
          match label, o with
          | none, some v => (pseudoOf m shape v).map Stmt.pseudo
          | _, _ => .error .malformed
  | _ => .error .malformed

/-- R69 `line`: a label, if any, then the rest. -/
def parseLabelled : List Tok → Except AsmError Stmt
  | .name l :: .colon :: ts => parseHead (some l) ts
  | ts => parseHead none ts

/-- The text of a `HOST <text>` line (R69), or `none` if the line is no such line. -/
def hostText (cs : List Char) : Option (List Char) :=
  match cs.dropWhile isBlank with
  | 'H' :: 'O' :: 'S' :: 'T' :: [] => some []
  | 'H' :: 'O' :: 'S' :: 'T' :: c :: rest => if isBlank c then some rest else none
  | _ => none

/-- R69: one line of a program. A comment runs from `;` to the end of the line; a line with nothing else on it is no
statement. -/
def parseLine (cs : List Char) : Except AsmError (Option Stmt) :=
  let code := cs.takeWhile (· ≠ ';')
  match hostText code with
  | some text => .ok (some (.host text))
  | none =>
    match tokens [] code with
    | .error e => .error e
    | .ok [] => .ok none
    | .ok ts => (parseLabelled ts).map some

end Sys2Proof.Machine
end

