-- ==== Sys2Proof/Machine/Instances.lean ====
section
/-! DEFINITION. Several instances of the unit (spec 60_exceptions.md R214): any number of units that share no state and
send each other nothing. Which unit steps next is a number the caller of `stepUnit` gives (log entry 16). -/

namespace Sys2Proof.Machine

/-- R214: the units of a system. A unit has no identifier; its place in the list is only the model's. -/
abbrev Units := List State

/-- One step of unit `k`; the others stand still. A place with no unit takes no step. -/
def stepUnit (k : Nat) (us : Units) : Host.Outcome Units Fault Refusal :=
  match us[k]? with
  | none => .next us
  | some s =>
    match step s with
    | .next s' => .next (us.set k s')
    | .fault f => .fault f
    | .refused r => .refused r

end Sys2Proof.Machine
end

