-- ==== Sys2Proof/Safety.lean ====
section
/-! DEFINITION. What counts as a sound state of the unit and as an answered step, in the terms the claims use. -/

namespace Sys2Proof.Machine

/-- R27, R67, R207: a response as the unit gives it: an error carries no lane, at most one port carries lanes, and
neither carries more than the longest result. -/
structure Response.Sound (rsp : Response) : Prop where
  error_empty : rsp.status ≠ .ok → rsp.wout = [] ∧ rsp.bout = []
  one_port : rsp.wout = [] ∨ rsp.bout = []
  wout_le : rsp.wout.length ≤ 16
  bout_le : rsp.bout.length ≤ 64

/-- The states a unit can be in: legal capacities (R6), only requests that fit them (R26), no result while a request is
in progress (R29, D26), no hidden working value while idle (R31), and a sound response on the ports. -/
structure State.Inv (s : State) : Prop where
  cfg_legal : s.cfg.Legal
  port_fits : ∀ r, s.port = some r → r.presentable s.cfg = true
  accepted_fits : ∀ r, s.accepted = some r → r.presentable s.cfg = true
  busy_no_result : s.accepted ≠ none → s.resp = none
  idle_no_work : s.accepted = none → s.x = none ∧ s.quad = none
  resp_sound : ∀ rsp, s.resp = some rsp → rsp.Sound

/-- The outcome is a next state: neither a fault nor a refusal. -/
def Answers {α : Type} (o : Host.Outcome α Fault Refusal) : Prop := ∃ a, o = .next a

end Sys2Proof.Machine
end

