-- ==== Sys2Proof/Certificates/Slice0/Obligations.lean ====
section
/-! DEFINITION. The statements for the provers, from the spec's numbered rules. The helpers under Sys2Proof.Claims read
the rules a second time, in other terms than the model's (fields by division, rotations of core Lean, steps by rows of
the working array), so that a statement compares the model with the rule and not with itself. -/

namespace Sys2Proof.Claims

open Sys2Proof.Machine

/-! ### The command word by arithmetic (R61) -/

/-- CMD[3:0]. -/
def op (cmd : Word) : Nat := cmd.toNat % 16

/-- CMD[6:4]. -/
def cw (cmd : Word) : Nat := cmd.toNat / 16 % 8

/-- CMD[9:7]. -/
def nw (cmd : Word) : Nat := cmd.toNat / 128 % 8

/-- CMD[31:10]. -/
def rsvd (cmd : Word) : Nat := cmd.toNat / 1024

/-- R65: what makes a CMD illegal. -/
def IllegalCmd (cmd : Word) : Prop :=
  op cmd = 0 ∨ 0xC ≤ op cmd ∨ rsvd cmd ≠ 0 ∨ (op cmd ≠ 0x9 ∧ op cmd ≠ 0xA ∧ (cw cmd ≠ 0 ∨ nw cmd ≠ 0))

/-- R62, R63: `cmd`'s fields are those of the instruction. -/
def FieldsOf (cmd : Word) : Instr → Prop
  | .w2b => op cmd = 0x1 ∧ cw cmd = 0 ∧ nw cmd = 0
  | .b2w => op cmd = 0x2 ∧ cw cmd = 0 ∧ nw cmd = 0
  | .b2s => op cmd = 0x3 ∧ cw cmd = 0 ∧ nw cmd = 0
  | .s2b => op cmd = 0x4 ∧ cw cmd = 0 ∧ nw cmd = 0
  | .qrf => op cmd = 0x5 ∧ cw cmd = 0 ∧ nw cmd = 0
  | .qri => op cmd = 0x6 ∧ cw cmd = 0 ∧ nw cmd = 0
  | .permf => op cmd = 0x7 ∧ cw cmd = 0 ∧ nw cmd = 0
  | .permi => op cmd = 0x8 ∧ cw cmd = 0 ∧ nw cmd = 0
  | .build c n => op cmd = 0x9 ∧ cw cmd = c ∧ nw cmd = n
  | .split c n => op cmd = 0xA ∧ cw cmd = c ∧ nw cmd = n
  | .hdrchk => op cmd = 0xB ∧ cw cmd = 0 ∧ nw cmd = 0

/-- R62: the OP value of a mnemonic. -/
def opValue : Op → Nat
  | .w2b => 0x1
  | .b2w => 0x2
  | .b2s => 0x3
  | .s2b => 0x4
  | .qrf => 0x5
  | .qri => 0x6
  | .permf => 0x7
  | .permi => 0x8
  | .build => 0x9
  | .split => 0xA
  | .hdrchk => 0xB

/-- R161: the two legal shapes. -/
def LegalShape (c n : Nat) : Prop := (c = 1 ∧ n = 3) ∨ (c = 2 ∧ n = 2)

/-- R66: the request carries the operand count the instruction needs, on the port it reads. -/
def CountOk (r : Request) : Instr → Prop
  | .w2b => r.win.length = 1
  | .b2w => r.bin.length = 4
  | .b2s => r.bin.length = 64
  | .qrf | .qri => r.win.length = 4
  | .build _ _ => r.win.length = 12
  | .s2b | .permf | .permi | .split _ _ | .hdrchk => r.win.length = 16

/-- R161, R203: the instruction has no shape or a legal one. -/
def ShapeFine : Instr → Prop
  | .build c n => LegalShape c n
  | .split c n => LegalShape c n
  | .w2b | .b2w | .b2s | .s2b | .qrf | .qri | .permf | .permi | .hdrchk => True

/-- R28: the header, as the spec writes it. -/
def header : List Word := [0x61707865, 0x3320646E, 0x79622D32, 0x6B206574]

/-- R204: the header check, if the instruction is HDRCHK. -/
def HeaderFine (r : Request) : Instr → Prop
  | .hdrchk => r.win.take 4 = header
  | _ => True

/-- R206: which STATUS the checks decide for the request, the first that fails first. -/
def Decides (r : Request) (st : Status) : Prop :=
  match decode r.cmd with
  | .error _ => st = .illegalCommand
  | .ok i =>
    (¬ ShapeFine i ∧ st = .shapeError) ∨
    (ShapeFine i ∧ ¬ CountOk r i ∧ st = .lengthError) ∨
    (ShapeFine i ∧ CountOk r i ∧ ¬ HeaderFine r i ∧ st = .recoveryFailure) ∨
    (ShapeFine i ∧ CountOk r i ∧ HeaderFine r i ∧ st = .ok)

/-- R205, R207: a request with this CMD is answered with ILLEGAL_COMMAND and nothing else, whatever its operands. -/
def AnsweredIllegal (cmd : Word) : Prop :=
  ∀ s r, s.accepted = some r → r.cmd = cmd →
    step s = .next (s.answered { status := .illegalCommand, wout := [], bout := [] })

/-- R61-R65: `word` is the one command word of the operation `i`, and every other CMD with its OP value is illegal. -/
def OneCommand (word : Word) (i : Instr) : Prop :=
  ∀ cmd, (decode cmd = .ok i ↔ cmd = word) ∧ (op cmd = op word → cmd ≠ word → AnsweredIllegal cmd)

/-- R61-R65: the command words of an operation with shape fields and OP = `k`, and that every other CMD with this OP
value (RSVD is not 0) is illegal. -/
def ShapedCommands (k : Nat) (i : Nat → Nat → Instr) : Prop :=
  (∀ cmd c n, decode cmd = .ok (i c n) ↔ cmd.toNat = k + 16 * c + 128 * n ∧ c < 8 ∧ n < 8) ∧
    ∀ cmd, op cmd = k → rsvd cmd ≠ 0 → AnsweredIllegal cmd

/-- R67: the number of Word result lanes of an operation that ends with OK. -/
def wordResults : Instr → Nat
  | .w2b | .s2b | .hdrchk => 0
  | .b2w => 1
  | .qrf | .qri => 4
  | .split _ _ => 12
  | .b2s | .permf | .permi | .build _ _ => 16

/-- R67: the number of byte result lanes of an operation that ends with OK. -/
def byteResults : Instr → Nat
  | .w2b => 4
  | .s2b => 64
  | .b2w | .b2s | .qrf | .qri | .permf | .permi | .build _ _ | .split _ _ | .hdrchk => 0

/-! ### Words, quarter-rounds and steps in core Lean's terms -/

/-- R41: the Word of four bytes, the first the least significant. -/
def wordOf (b0 b1 b2 b3 : Byte) : Word := b3 ++ b2 ++ b1 ++ b0

/-- R41: the four bytes of a Word, the least significant first. -/
def bytesOf (w : Word) : List Byte :=
  [w.extractLsb' 0 8, w.extractLsb' 8 8, w.extractLsb' 16 8, w.extractLsb' 24 8]

/-- R123: the forward quarter-round. -/
def quarter (q : Quad) : Quad :=
  let a₁ := q.a + q.b
  let d₁ := (q.d ^^^ a₁).rotateLeft 16
  let c₁ := q.c + d₁
  let b₁ := (q.b ^^^ c₁).rotateLeft 12
  let a₂ := a₁ + b₁
  let d₂ := (d₁ ^^^ a₂).rotateLeft 8
  let c₂ := c₁ + d₂
  let b₂ := (b₁ ^^^ c₂).rotateLeft 7
  { a := a₂, b := b₂, c := c₂, d := d₂ }

/-- R124: the inverse quarter-round. -/
def quarterBack (q : Quad) : Quad :=
  let b₁ := q.b.rotateRight 7 ^^^ q.c
  let c₁ := q.c - q.d
  let d₁ := q.d.rotateRight 8 ^^^ q.a
  let a₁ := q.a - b₁
  let b₂ := b₁.rotateRight 12 ^^^ c₁
  let c₂ := c₁ - d₁
  let d₂ := d₁.rotateRight 16 ^^^ a₁
  let a₂ := a₁ - b₂
  { a := a₂, b := b₂, c := c₂, d := d₂ }

/-- Row `row` of a quadruple: a, b, c or d. -/
def pick (q : Quad) (row : Nat) : Word :=
  match row with
  | 0 => q.a
  | 1 => q.b
  | 2 => q.c
  | _ => q.d

/-- R141, R143: the column step: column j is words j, j+4, j+8, j+12; word k lies in column k mod 4, row k div 4. -/
def columnStep (f : Quad → Quad) (x : Words16) : Words16 :=
  Vector.ofFn fun k : Fin 16 =>
    pick (f ⟨x[k.val % 4], x[k.val % 4 + 4], x[k.val % 4 + 8], x[k.val % 4 + 12]⟩) (k.val / 4)

/-- R142, R143: the diagonal step: diagonal j takes word j + row mod 4 of each row; word k of row k div 4 lies on
diagonal (k - row) mod 4. -/
def diagonalStep (f : Quad → Quad) (x : Words16) : Words16 :=
  Vector.ofFn fun k : Fin 16 =>
    let j := (k.val + 4 - k.val / 4) % 4
    pick (f ⟨x[j], x[(j + 1) % 4 + 4], x[(j + 2) % 4 + 8], x[(j + 3) % 4 + 12]⟩) (k.val / 4)

/-- R140, R143: a forward double round: columns, then diagonals. -/
def doubleRound (x : Words16) : Words16 := diagonalStep quarter (columnStep quarter x)

/-- R144: a reverse double round: diagonals, then columns. -/
def doubleRoundBack (x : Words16) : Words16 := columnStep quarterBack (diagonalStep quarterBack x)

/-- `j` undoes `i` on the Word lanes `ws`: `i` answers OK on them, and `j` on the Word results answers OK with `ws`. -/
def UndoesWords (i j : Instr) (ws : List Word) : Prop :=
  ∀ s r, s.accepted = some r → r.win = ws →
    ∃ out, exec i s = .next (s.answered { status := .ok, wout := out, bout := [] }) ∧
      ∀ t q, t.accepted = some q → q.win = out →
        exec j t = .next (t.answered { status := .ok, wout := ws, bout := [] })

end Sys2Proof.Claims

open Sys2Proof Sys2Proof.Machine Sys2Proof.Claims

/-! ### Reset and the whole machine -/

/-- R33: what reset leaves: idle, no working value, and no value on any result port. The clause that no request is
presented is the model's choice of the initial state (log entry 18): R33 only says that the caller drives the ports. -/
def Obligations.ResetLeavesIdleUnitWithoutResults : Prop :=
  State.reset.accepted = none ∧ State.reset.port = none ∧ State.reset.x = none ∧ State.reset.quad = none ∧
    readStatus State.reset = .error .noValue ∧ readWocnt State.reset = .error .noValue ∧
    readBocnt State.reset = .error .noValue ∧
    ∀ i, readWout i State.reset = .error .noValue ∧ readBout i State.reset = .error .noValue

/-- Reset meets the invariant of the next statements, with any legal capacities; the default ones (R6) are log entry 3. -/
def Obligations.ResetMeetsInvariant : Prop :=
  State.reset.Inv ∧ ∀ cfg : Capacity, cfg.Legal → (State.resetWith cfg).Inv

/-- R26, R29, R31, R207: every step keeps the invariant `State.Inv`. Its clause that an idle unit has no working value is
log entry 5. -/
def Obligations.StepKeepsInvariant : Prop :=
  ∀ s s', s.Inv → step s = .next s' → s'.Inv

/-- What the outside does to the unit keeps the invariant: presenting a request (R26; log entry 8), reset (R240; log entry
7), and the model's own loading of a command (log entry 9). -/
def Obligations.CallerAndResetKeepInvariant : Prop :=
  ∀ s, s.Inv →
    s.assertReset.Inv ∧ (∀ r s', present r s = .next s' → s'.Inv) ∧ ∀ nbits w, (s.withFetchWord nbits w).Inv

/-- From every state that meets the invariant the unit goes on: no fault and no refusal. That an operation's error is no
stop is R200 (errors are returned values) and R208 (there are no traps); that a busy unit answers in its next step is the
model's choice, log entry 1, and that a waiting idle unit steps to itself is the model's choice, log entry 6. -/
def Obligations.UnitNeverStops : Prop := ∀ s, s.Inv → Answers (step s)

/-! ### Commands -/

/-- Every well-formed instruction is read back from its command word. -/
def Obligations.DecodeUndoesEncode : Prop := ∀ i : Instr, i.wf = true → decode (encode i) = .ok i

/-- Every command word that decodes is the command word of the well-formed instruction it decodes to. -/
def Obligations.EncodeUndoesDecode : Prop :=
  ∀ cmd i, decode cmd = .ok i → i.wf = true ∧ encode i = cmd

/-- R61-R64, R68: a CMD decodes to an operation exactly when RSVD is 0 and its fields are that operation's. -/
def Obligations.DecodeReadsTheFields : Prop :=
  ∀ cmd i, decode cmd = .ok i ↔ rsvd cmd = 0 ∧ FieldsOf cmd i

/-- R65, R205: exactly the illegal CMDs do not decode, and a request with one is answered with ILLEGAL_COMMAND whatever
its operands. -/
def Obligations.IllegalCommandsAreReported : Prop :=
  ∀ cmd, (IllegalCmd cmd ↔ ∃ why, decode cmd = .error why) ∧
    (IllegalCmd cmd → AnsweredIllegal cmd)

/-- R65: exactly 137 CMD values decode to an operation. -/
def Obligations.ExactlyOneHundredThirtySevenCommands : Prop :=
  ∃ cmds : List Word, cmds.Nodup ∧ cmds.length = 9 + 2 * 64 ∧ ∀ cmd, cmd ∈ cmds ↔ ∃ i, decode cmd = .ok i

/-- R62, R69: command words written out from the spec, and what they decode to. -/
def Obligations.SpecCommandWordsDecode : Prop :=
  decode 0x00000001 = .ok .w2b ∧ decode 0x00000002 = .ok .b2w ∧ decode 0x00000005 = .ok .qrf ∧
    decode 0x00000007 = .ok .permf ∧ decode 0x00000129 = .ok (.build 2 2) ∧ decode 0x00000199 = .ok (.build 1 3) ∧
    decode 0x0000012A = .ok (.split 2 2) ∧ decode 0x0000000B = .ok .hdrchk

/-- R69, D13: the assembled CMD is OP | CW << 4 | NW << 7, with CW = 2 and NW = 2 for a BUILD or SPLIT without a shape;
a shape on any other mnemonic is an error. The clause that a shape number over 7, which has no place in its 3-bit field
(R61), is the error `shapeTooWide` is the model's choice, log entry 20. -/
def Obligations.AssembledCommandIsFieldSum : Prop :=
  ∀ o : Op,
    (o = .build ∨ o = .split →
      (∀ c n, c < 8 → n < 8 →
        assembleCommand o (some (c, n)) = .ok (BitVec.ofNat 32 (opValue o ||| c <<< 4 ||| n <<< 7))) ∧
      (∀ c n, 8 ≤ c ∨ 8 ≤ n → assembleCommand o (some (c, n)) = .error .shapeTooWide) ∧
      assembleCommand o none = assembleCommand o (some (2, 2))) ∧
    (o ≠ .build ∧ o ≠ .split →
      (∀ shape, assembleCommand o (some shape) = .error .shapeNotAllowed) ∧
      assembleCommand o none = .ok (BitVec.ofNat 32 (opValue o)))

/-! ### Steps -/

/-- A busy unit runs the instruction its sampled CMD decodes to, and an idle unit accepts the request on its ports and
runs it in the step after: the result ports hold no value in between (R29, R243). The two steps are log entry 1. -/
def Obligations.StepRunsTheDecodedInstruction : Prop :=
  (∀ s r i, s.accepted = some r → decode r.cmd = .ok i → step s = exec i s) ∧
  (∀ s r i, s.accepted = none → s.port = some r → r.presentable s.cfg = true → decode r.cmd = .ok i →
    ∃ t, step s = .next t ∧ t.cfg = s.cfg ∧ t.port = none ∧ t.accepted = some r ∧ t.resp = none ∧ step t = exec i t)

/-- The state the host loads a command word into runs that command in the very next step (log entry 9). -/
def Obligations.LoadedCommandRunsNext : Prop :=
  ∀ (s : State) (w : Nat) (i : Instr), w < 2 ^ 32 → decode (BitVec.ofNat 32 w) = .ok i →
    step (s.withFetchWord 32 w) = exec i (s.withFetchWord 32 w) ∧
      ∃ r, (s.withFetchWord 32 w).accepted = some r ∧ r.cmd = BitVec.ofNat 32 w

/-- R29, R244: the result ports of an idle unit keep their value while the caller presents nothing or presents the next
request, and hold no value from its acceptance on. That an idle unit's step changes nothing is log entry 6, that
acceptance is a step of its own log entry 1. -/
def Obligations.ResultsHoldUntilNextAcceptance : Prop :=
  ∀ s, s.accepted = none →
    (s.port = none → step s = .next s) ∧
    (∀ r s', present r s = .next s' → s'.resp = s.resp ∧ s'.accepted = none) ∧
    (∀ r, s.port = some r → r.presentable s.cfg = true →
      ∃ t, step s = .next t ∧ t.resp = none ∧ readStatus t = .error .noValue ∧ readWocnt t = .error .noValue ∧
        readBocnt t = .error .noValue ∧ ∀ i, readWout i t = .error .noValue ∧ readBout i t = .error .noValue)

/-- R29: a result lane below its count reads as the response's lane; at or above the count it holds no value. -/
def Obligations.LanesBeyondTheCountHoldNoValue : Prop :=
  ∀ s rsp, s.resp = some rsp → ∀ i,
    (∀ w, rsp.wout[i]? = some w → readWout i s = .ok w) ∧
    (rsp.wout.length ≤ i → readWout i s = .error .noValue) ∧
    (∀ b, rsp.bout[i]? = some b → readBout i s = .ok b) ∧
    (rsp.bout.length ≤ i → readBout i s = .error .noValue)

/-- R26, U11: a request with more lanes than the capacity cannot be presented. The clause that an idle unit's step refuses
one that stands on its ports all the same is the model's, log entry 4. -/
def Obligations.OversizedRequestsAreTurnedAway : Prop :=
  ∀ s r, s.cfg.maxW < r.win.length ∨ s.cfg.maxB < r.bin.length →
    present r s = .refused .notPresentable ∧
    (s.accepted = none → s.port = some r → step s = .refused .notPresentable)

/-- R240: reset abandons the request in progress: the unit is idle with no result and no working value; however long it
then runs without a new request it delivers no response; and it accepts a new request at once. The steps are log entries
1 and 6. -/
def Obligations.ResetAbandonsTheRequest : Prop :=
  ∀ s : State, s.assertReset.accepted = none ∧ s.assertReset.x = none ∧ s.assertReset.quad = none ∧
    s.assertReset.resp = none ∧
    (∀ n, ∃ t, steps n { s.assertReset with port := none } = .next t ∧ t.accepted = none ∧ t.resp = none) ∧
    ∀ r : Request, r.presentable s.cfg = true →
      ∃ t, step { s.assertReset with port := some r } = .next t ∧ t.accepted = some r

/-- R209: whatever the last response was, the unit accepts the next request in the same condition as after reset. -/
def Obligations.AcceptanceAfterAnyResponseIsAsAfterReset : Prop :=
  ∀ (s : State) (r : Request), s.accepted = none →
    step { s with port := some r } = step { State.resetWith s.cfg with port := some r }

/-! ### Answering a request -/

/-- R206: the STATUS of a request is the first check that fails, in the rule's order, or OK. -/
def Obligations.StatusFollowsThePriority : Prop :=
  ∀ s r, s.accepted = some r →
    ∃ rsp, step s = .next (s.answered rsp) ∧ Decides r rsp.status

/-- R202: every operation whose shape is legal (or that has none) answers LENGTH_ERROR, and nothing else, when the count
of its port is wrong. -/
def Obligations.WrongCountsGiveLengthError : Prop :=
  ∀ i s r, s.accepted = some r → ShapeFine i → ¬ CountOk r i →
    exec i s = .next (s.answered { status := .lengthError, wout := [], bout := [] })

/-- R161, R203: BUILD and SPLIT answer SHAPE_ERROR for every shape but (1, 3) and (2, 2), whatever their lanes. -/
def Obligations.IllegalShapesGiveShapeError : Prop :=
  ∀ c n, (shapeOk c n = true ↔ LegalShape c n) ∧
    (¬ LegalShape c n → ∀ s r, s.accepted = some r →
      exec (.build c n) s = .next (s.answered { status := .shapeError, wout := [], bout := [] }) ∧
      exec (.split c n) s = .next (s.answered { status := .shapeError, wout := [], bout := [] }))

/-- R207: an error response has both counts 0 and no lane that can be read. -/
def Obligations.ErrorResponsesCarryNoLanes : Prop :=
  ∀ s t rsp, s.accepted ≠ none → step s = .next t → t.resp = some rsp → rsp.status ≠ .ok →
    readStatus t = .ok rsp.status ∧ readWocnt t = .ok 0 ∧ readBocnt t = .ok 0 ∧
      ∀ i, readWout i t = .error .noValue ∧ readBout i t = .error .noValue

/-- The frame of every operation (R51: "The only output is the response"; R25): what exec leaves unchanged, and that the
request is then done. -/
def Obligations.OperationsChangeOnlyTheResponse : Prop :=
  ∀ i s t, exec i s = .next t →
    t.cfg = s.cfg ∧ t.port = s.port ∧ t.accepted = none ∧ t.x = none ∧ t.quad = none ∧ ∃ rsp, t.resp = some rsp

/-- R25: the response depends on the request alone: two units that have accepted the same request give the same
response, whatever else their states hold, and keep everything that is not theirs. That one step answers is log
entry 1. -/
def Obligations.ResponseDependsOnRequestAlone : Prop :=
  ∀ s₁ s₂ r, s₁.accepted = some r → s₂.accepted = some r →
    ∃ rsp, step s₁ = .next (s₁.answered rsp) ∧ step s₂ = .next (s₂.answered rsp)

/-- R243: the unit samples the whole request when it accepts it, and what the caller does to the request ports after
that does not change the request or its response. That acceptance is a step of its own is log entry 1. -/
def Obligations.PortsAreSampledOnce : Prop :=
  (∀ s r, s.accepted = none → s.port = some r → r.presentable s.cfg = true →
    ∃ t, step s = .next t ∧ t.accepted = some r) ∧
  ∀ (s t : State) (p : Option Request), s.accepted ≠ none → step s = .next t →
    step { s with port := p } = .next { t with port := p }

/-- R31: the working array and the quadruple are not read before they are written, and nothing of them survives. -/
def Obligations.HiddenStateStartsFreshAndVanishes : Prop :=
  ∀ (s : State) (x : Option Words16) (q : Option Quad), s.accepted ≠ none →
    ∃ t, step { s with x := x, quad := q } = .next t ∧ step s = .next t ∧ t.x = none ∧ t.quad = none

/-! ### The operations, each with its encoding, its result and its errors -/

/-- R101. -/
def Obligations.W2bGivesTheBytesOfTheWord : Prop :=
  OneCommand 0x00000001 .w2b ∧
  ∀ s r, s.accepted = some r →
    (∀ w, r.win = [w] →
      exec .w2b s = .next (s.answered { status := .ok, wout := [], bout := bytesOf w })) ∧
    (r.win.length ≠ 1 → exec .w2b s = .next (s.answered { status := .lengthError, wout := [], bout := [] }))

/-- R102. -/
def Obligations.B2wGivesTheWordOfTheBytes : Prop :=
  OneCommand 0x00000002 .b2w ∧
  ∀ s r, s.accepted = some r →
    (∀ b0 b1 b2 b3, r.bin = [b0, b1, b2, b3] →
      exec .b2w s = .next (s.answered { status := .ok, wout := [wordOf b0 b1 b2 b3], bout := [] })) ∧
    (r.bin.length ≠ 4 → exec .b2w s = .next (s.answered { status := .lengthError, wout := [], bout := [] }))

/-- R103. -/
def Obligations.B2sGivesSixteenWords : Prop :=
  OneCommand 0x00000003 .b2s ∧
  ∀ s r, s.accepted = some r →
    (∀ b : Block, r.bin = b.toList →
      exec .b2s s = .next (s.answered
        { status := .ok,
          wout := (List.finRange 16).map fun i =>
            wordOf b[4 * i.val] b[4 * i.val + 1] b[4 * i.val + 2] b[4 * i.val + 3],
          bout := [] })) ∧
    (r.bin.length ≠ 64 → exec .b2s s = .next (s.answered { status := .lengthError, wout := [], bout := [] }))

/-- R104. -/
def Obligations.S2bGivesSixtyFourBytes : Prop :=
  OneCommand 0x00000004 .s2b ∧
  ∀ s r, s.accepted = some r →
    (r.win.length = 16 →
      exec .s2b s = .next (s.answered { status := .ok, wout := [], bout := r.win.flatMap bytesOf })) ∧
    (r.win.length ≠ 16 → exec .s2b s = .next (s.answered { status := .lengthError, wout := [], bout := [] }))

/-- R123. -/
def Obligations.QrfGivesTheQuarterRound : Prop :=
  OneCommand 0x00000005 .qrf ∧
  ∀ s r, s.accepted = some r →
    (∀ a b c d, r.win = [a, b, c, d] →
      exec .qrf s = .next (s.answered
        { status := .ok, wout := (List.range 4).map (pick (quarter ⟨a, b, c, d⟩)), bout := [] })) ∧
    (r.win.length ≠ 4 → exec .qrf s = .next (s.answered { status := .lengthError, wout := [], bout := [] }))

/-- R124. -/
def Obligations.QriGivesTheInverseQuarterRound : Prop :=
  OneCommand 0x00000006 .qri ∧
  ∀ s r, s.accepted = some r →
    (∀ a b c d, r.win = [a, b, c, d] →
      exec .qri s = .next (s.answered
        { status := .ok, wout := (List.range 4).map (pick (quarterBack ⟨a, b, c, d⟩)), bout := [] })) ∧
    (r.win.length ≠ 4 → exec .qri s = .next (s.answered { status := .lengthError, wout := [], bout := [] }))

/-- R145, R147: ten double rounds, and no final addition. -/
def Obligations.PermfGivesTenDoubleRounds : Prop :=
  OneCommand 0x00000007 .permf ∧
  ∀ s r, s.accepted = some r →
    (∀ v : Words16, r.win = v.toList →
      exec .permf s = .next (s.answered { status := .ok, wout := (doubleRound^[10] v).toList, bout := [] })) ∧
    (r.win.length ≠ 16 → exec .permf s = .next (s.answered { status := .lengthError, wout := [], bout := [] }))

/-- R146. -/
def Obligations.PermiGivesTenReverseDoubleRounds : Prop :=
  OneCommand 0x00000008 .permi ∧
  ∀ s r, s.accepted = some r →
    (∀ v : Words16, r.win = v.toList →
      exec .permi s = .next (s.answered { status := .ok, wout := (doubleRoundBack^[10] v).toList, bout := [] })) ∧
    (r.win.length ≠ 16 → exec .permi s = .next (s.answered { status := .lengthError, wout := [], bout := [] }))

/-- R162: both legal shapes give the header and the twelve lanes; the shape is checked before the count. -/
def Obligations.BuildGivesHeaderAndLanes : Prop :=
  ShapedCommands 9 .build ∧
  ∀ s r c n, s.accepted = some r →
    (LegalShape c n → r.win.length = 12 →
      exec (.build c n) s = .next (s.answered { status := .ok, wout := header ++ r.win, bout := [] })) ∧
    (LegalShape c n → r.win.length ≠ 12 →
      exec (.build c n) s = .next (s.answered { status := .lengthError, wout := [], bout := [] })) ∧
    (¬ LegalShape c n →
      exec (.build c n) s = .next (s.answered { status := .shapeError, wout := [], bout := [] }))

/-- R163: both legal shapes give words 4-15, whatever the header; the shape is checked before the count. -/
def Obligations.SplitGivesWordsFourToFifteen : Prop :=
  ShapedCommands 10 .split ∧
  ∀ s r c n, s.accepted = some r →
    (LegalShape c n → ∀ front back : List Word, front.length = 4 → back.length = 12 → r.win = front ++ back →
      exec (.split c n) s = .next (s.answered { status := .ok, wout := back, bout := [] })) ∧
    (LegalShape c n → r.win.length ≠ 16 →
      exec (.split c n) s = .next (s.answered { status := .lengthError, wout := [], bout := [] })) ∧
    (¬ LegalShape c n →
      exec (.split c n) s = .next (s.answered { status := .shapeError, wout := [], bout := [] }))

/-- R164: OK with no lanes exactly when the first four words are the header. -/
def Obligations.HdrchkComparesTheHeader : Prop :=
  OneCommand 0x0000000B .hdrchk ∧
  ∀ s r, s.accepted = some r →
    (∀ rest, rest.length = 12 → r.win = header ++ rest →
      exec .hdrchk s = .next (s.answered { status := .ok, wout := [], bout := [] })) ∧
    (∀ front rest, front.length = 4 → rest.length = 12 → front ≠ header → r.win = front ++ rest →
      exec .hdrchk s = .next (s.answered { status := .recoveryFailure, wout := [], bout := [] })) ∧
    (r.win.length ≠ 16 → exec .hdrchk s = .next (s.answered { status := .lengthError, wout := [], bout := [] }))

/-! ### Laws the source states -/

/-- R105: the three round trips of the codec, as requests. -/
def Obligations.CodecRoundTripsAreExact : Prop :=
  (∀ s r w, s.accepted = some r → r.win = [w] →
    ∃ bs, exec .w2b s = .next (s.answered { status := .ok, wout := [], bout := bs }) ∧
      ∀ t q, t.accepted = some q → q.bin = bs →
        exec .b2w t = .next (t.answered { status := .ok, wout := [w], bout := [] })) ∧
  (∀ s r, s.accepted = some r → r.win.length = 16 →
    ∃ bs, exec .s2b s = .next (s.answered { status := .ok, wout := [], bout := bs }) ∧
      ∀ t q, t.accepted = some q → q.bin = bs →
        exec .b2s t = .next (t.answered { status := .ok, wout := r.win, bout := [] })) ∧
  (∀ s r, s.accepted = some r → r.bin.length = 64 →
    ∃ ws, exec .b2s s = .next (s.answered { status := .ok, wout := ws, bout := [] }) ∧
      ∀ t q, t.accepted = some q → q.win = ws →
        exec .s2b t = .next (t.answered { status := .ok, wout := [], bout := r.bin }))

/-- R125: QRI undoes QRF, and (the spec's own inference, [derived: from rules R123 and R124]) QRF undoes QRI, on every
quadruple. -/
def Obligations.QuarterRoundsUndoEachOther : Prop :=
  ∀ ws : List Word, ws.length = 4 → UndoesWords .qrf .qri ws ∧ UndoesWords .qri .qrf ws

/-- R148: PERMI undoes PERMF, and (the spec's own inference, [derived: from rules R143, R144 and R125]) PERMF undoes
PERMI, on every State. -/
def Obligations.PermutationsUndoEachOther : Prop :=
  ∀ ws : List Word, ws.length = 16 → UndoesWords .permf .permi ws ∧ UndoesWords .permi .permf ws

/-- R166 (the spec's own inference, [derived: from rules R162, R163, R164]): SPLIT undoes BUILD; BUILD undoes SPLIT on a
State whose HDRCHK is OK, and replaces any other header by HDR. -/
def Obligations.BuildAndSplitUndoEachOther : Prop :=
  ∀ c n, LegalShape c n →
    (∀ ws : List Word, ws.length = 12 → UndoesWords (.build c n) (.split c n) ws) ∧
    (∀ ws : List Word, ws.length = 16 →
      (∃ s r, s.accepted = some r ∧ r.win = ws ∧
        exec .hdrchk s = .next (s.answered { status := .ok, wout := [], bout := [] })) →
      UndoesWords (.split c n) (.build c n) ws) ∧
    (∀ front back : List Word, front.length = 4 → back.length = 12 → ∀ s r, s.accepted = some r → r.win = front ++ back →
      ∃ out, exec (.split c n) s = .next (s.answered { status := .ok, wout := out, bout := [] }) ∧
        ∀ t q, t.accepted = some q → q.win = out →
          exec (.build c n) t = .next (t.answered { status := .ok, wout := header ++ back, bout := [] }))

/-- R143, R144: the double rounds step by step, and that a reverse double round undoes a forward one (the spec's own
inference in R144). -/
def Obligations.ReverseDoubleRoundUndoesForward : Prop :=
  ∀ x : Words16, doubleRoundForward x = doubleRound x ∧ doubleRoundInverse x = doubleRoundBack x ∧
    doubleRoundInverse (doubleRoundForward x) = x

/-- R149: inside a step the groups may be taken in any order, whatever is done to each. -/
def Obligations.GroupsOfAStepMayRunInAnyOrder : Prop :=
  ∀ (f : Quad → Quad) (gs : List LaneGroup) (x : Words16),
    (gs.Perm columns → applyGroups f gs x = columnStep f x) ∧
    (gs.Perm diagonals → applyGroups f gs x = diagonalStep f x)

/-- R120: sums and differences of Words are modulo 2^32, a difference is the unique Word that adds up, and `^` is
bitwise exclusive or. -/
def Obligations.WordArithmeticWraps : Prop :=
  ∀ x y z : Word, (add32 x y).toNat = (x.toNat + y.toNat) % 2 ^ 32 ∧
    (sub32 x y).toNat = (x.toNat + 2 ^ 32 - y.toNat) % 2 ^ 32 ∧ (add32 z y = x ↔ z = sub32 x y) ∧
    ∀ i, (x ^^^ y).getLsbD i = (x.getLsbD i ^^ y.getLsbD i)

/-- R121, R122: rotation by any integer amount: bit i moves to bit i + n mod 32, the amount counts mod 32, and a right
rotation by n undoes a left one (the spec's own inference in R122). That the amount is any integer is log
entry 13. -/
def Obligations.RotationsMoveEveryBit : Prop :=
  ∀ (x : Word) (n : Int), (∀ i : Nat, i < 32 → (rotl32 x n).getLsbD ((i + (n % 32).toNat) % 32) = x.getLsbD i) ∧
    rotr32 x n = rotl32 x ((32 - n) % 32) ∧ rotr32 (rotl32 x n) n = x

/-- R201: the codes of the five STATUS names, that the codes 5, 6 and 7 are refused (U7), and that the STATUS port shows
the code of the response's name. Names and codes apart are log entry 11. -/
def Obligations.StatusCodesAreTheSpecs : Prop :=
  Status.ok.code = 0 ∧ Status.lengthError.code = 1 ∧ Status.shapeError.code = 2 ∧ Status.recoveryFailure.code = 3 ∧
    Status.illegalCommand.code = 4 ∧ (∀ st : Status, Status.ofCode st.code = .ok st) ∧
    (∀ c : BitVec 3, 5 ≤ c.toNat → Status.ofCode c = .error .statusOutsideDomain) ∧
    ∀ s rsp, State.resp s = some rsp → readStatusCode s = .ok rsp.status.code

/-- R28, R41: the header in bytes: "expand 32-byte k". -/
def Obligations.HeaderBytesAreTheSpecs : Prop :=
  hdr.toList = header ∧
  hdr.toList.flatMap (fun w => (wordToBytes w).toList) =
    [0x65, 0x78, 0x70, 0x61, 0x6E, 0x64, 0x20, 0x33, 0x32, 0x2D, 0x62, 0x79, 0x74, 0x65, 0x20, 0x6B]

/-! ### Runs (R46, R249) -/

/-- R45, R46, R249: from any unit that has nothing to do, a run answers every request, one response per request and in
order, and each response is the one the same request gets alone right after reset. That the run completes rests on log
entries 1 (a request takes two steps) and 17 (the caller reads after at most three). -/
def Obligations.RunAnswersEachRequestOnItsOwn : Prop :=
  ∀ (rs : List Request) (s : State), s.accepted = none → s.port = none → (∀ r ∈ rs, r.presentable s.cfg = true) →
    ∃ t rsps, observe rs s = .next (t, rsps) ∧ t.accepted = none ∧ t.port = none ∧ rsps.length = rs.length ∧
      ∀ (k : Nat) r rsp, rs[k]? = some r → rsps[k]? = some rsp →
        ∃ u, transact r (State.resetWith s.cfg) = .next (u, rsp)

/-- R214: a step of one unit leaves every other unit as it is, and the steps of two units commute. That a unit is chosen
by number is log entry 16. -/
def Obligations.UnitsAreIndependent : Prop :=
  (∀ k us us', stepUnit k us = .next us' → us'.length = us.length ∧ ∀ j, j ≠ k → us'[j]? = us[j]?) ∧
  (∀ j k us us₁ us₂, j ≠ k → stepUnit j us = .next us₁ → stepUnit k us = .next us₂ →
    ∃ us₃, stepUnit k us₁ = .next us₃ ∧ stepUnit j us₂ = .next us₃)

/-! ### The caller's compositions (R70) -/

/-- R70, R104, R145: KEYSTREAM answers with the Block of the permuted State. For a caller that has used the label t before
this rests on log entry 15 (the newest label counts), and its reads on log entry 17. -/
def Obligations.KeystreamIsThePermutedStateInBytes : Prop :=
  ∀ (v : Words16) (c : Caller), c.unit.Inv → c.unit.accepted = none → c.unit.port = none →
    ∃ c', runPseudo (.keystream (.words v.toList)) c = .ok (c', .ok) ∧
      c'.log = c.log ++
        [{ status := .ok, wout := (doubleRound^[10] v).toList, bout := [] },
         { status := .ok, wout := [], bout := (doubleRound^[10] v).toList.flatMap bytesOf }]

/-- R70 with R105, R148 and R166: RECOVER on the keystream of a built State gives back its key, counter and nonce
(95_test_vectors.md T6). For a caller that has used the labels u and v before this rests on log entry 15 (the newest
label counts), and its reads on log entry 17. -/
def Obligations.RecoverFindsKeyCounterAndNonce : Prop :=
  ∀ (lanes : List Word) (v : Words16) (c : Caller), lanes.length = 12 → v.toList = header ++ lanes →
    c.unit.Inv → c.unit.accepted = none → c.unit.port = none →
    ∃ c', runPseudo (.recover (.bytes ((doubleRound^[10] v).toList.flatMap bytesOf))) c = .ok (c', .ok) ∧
      c'.log.getLast? = some { status := .ok, wout := lanes, bout := [] } ∧ c'.log.length = c.log.length + 4

/-- R70, R164: RECOVER on a Block that is the keystream of a State with another header ends in RECOVERY_FAILURE after
three requests, with no SPLIT (95_test_vectors.md T7). For a caller that has used the labels u and v before this rests on
log entry 15 (the newest label counts), and its reads on log entry 17. -/
def Obligations.RecoverRejectsAnotherHeader : Prop :=
  ∀ (v : Words16) (c : Caller), v.toList.take 4 ≠ header →
    c.unit.Inv → c.unit.accepted = none → c.unit.port = none →
    ∃ c', runPseudo (.recover (.bytes ((doubleRound^[10] v).toList.flatMap bytesOf))) c = .ok (c', .recoveryFailure) ∧
      c'.log.length = c.log.length + 3

/-! ### The count ports -/

/-- R26, R27 (log entry 2): in a state that meets the invariant the count ports WOCNT and BOCNT read the numbers of result
lanes, and WCNT and BCNT of a request on the ports or in progress are its numbers of operand lanes. -/
def Obligations.CountPortsReadTheLaneNumbers : Prop :=
  ∀ s : State, s.Inv →
    (∀ rsp, s.resp = some rsp →
      ∃ wc bc, readWocnt s = .ok wc ∧ readBocnt s = .ok bc ∧ wc.toNat = rsp.wout.length ∧ bc.toNat = rsp.bout.length) ∧
    ∀ r, s.port = some r ∨ s.accepted = some r → r.wcnt.toNat = r.win.length ∧ r.bcnt.toNat = r.bin.length

/-- R67: what STATUS, WOCNT and BOCNT read after an operation whose checks all pass: OK, the operation's count on its
result port and 0 on the other. -/
def Obligations.ResultCountsAreTheSpecs : Prop :=
  ∀ i s r, s.accepted = some r → ShapeFine i → CountOk r i → HeaderFine r i →
    ∃ t wc bc, exec i s = .next t ∧ readStatus t = .ok .ok ∧ readWocnt t = .ok wc ∧ readBocnt t = .ok bc ∧
      wc.toNat = wordResults i ∧ bc.toNat = byteResults i
end

