-- ==== Sys2Proof/Laws/Arith.lean ====
section
/-! SUPPORT. The rotations and the codec of a Word in core Lean's terms, and one quarter-round in place, index by
index. -/

namespace Sys2Proof.Machine

/-- R121: a rotation of the spec is core Lean's rotation by the reduced amount. -/
theorem rotl32_eq (x : Word) (n : Int) : rotl32 x n = x.rotateLeft (n % 32).toNat := by
  have h : (n % 32).toNat < 32 := by omega
  simp only [rotl32, BitVec.rotateLeft, Nat.mod_eq_of_lt h, BitVec.rotateLeftAux]
  split
  · next h0 => rw [h0]; ext i hi; simp
  · rfl

/-- R122: a right rotation of the spec by 0..31 is core Lean's. -/
theorem rotr32_eq (x : Word) (n : Nat) (h : n < 32) : rotr32 x n = x.rotateRight n := by
  rw [rotr32, rotl32_eq]
  have : ((((32 : Int) - n) % 32) % 32).toNat = (32 - n) % 32 := by omega
  rw [this]
  apply BitVec.eq_of_getLsbD_eq
  intro i hi
  simp only [BitVec.getLsbD_rotateLeft, BitVec.getLsbD_rotateRight]
  rcases Nat.eq_zero_or_pos n with rfl | hn
  · simp [hi]
  · rw [Nat.mod_eq_of_lt (show 32 - n < 32 by omega), Nat.mod_eq_of_lt (show 32 - n < 32 by omega), Nat.mod_eq_of_lt h]
    by_cases hc : i < 32 - n
    · simp only [hc, Nat.sub_sub_self (Nat.le_of_lt h)]
    · simp [hc, hi]

/-- One quarter-round in place, read at an index: the written words at the group's indices, the old word elsewhere. -/
theorem getElem_applyGroup (f : Quad → Quad) (x : Words16) (g : LaneGroup) (k : Nat) (hk : k < 16) :
    (applyGroup f x g)[k] =
      if g.id.val = k then (f ⟨x[g.ia], x[g.ib], x[g.ic], x[g.id]⟩).d
      else if g.ic.val = k then (f ⟨x[g.ia], x[g.ib], x[g.ic], x[g.id]⟩).c
      else if g.ib.val = k then (f ⟨x[g.ia], x[g.ib], x[g.ic], x[g.id]⟩).b
      else if g.ia.val = k then (f ⟨x[g.ia], x[g.ib], x[g.ic], x[g.id]⟩).a
      else x[k] := by
  simp only [applyGroup, Vector.getElem_set]

/-- `k` is one of the four indices of the group. -/
def LaneGroup.Has (g : LaneGroup) (k : Nat) : Prop := g.ia.val = k ∨ g.ib.val = k ∨ g.ic.val = k ∨ g.id.val = k

/-- A quarter-round in place leaves every word outside its group alone. -/
theorem getElem_applyGroup_of_not_has (f : Quad → Quad) (x : Words16) (g : LaneGroup) (k : Nat) (hk : k < 16)
    (h : ¬ g.Has k) : (applyGroup f x g)[k] = x[k] := by
  unfold LaneGroup.Has at h
  rw [getElem_applyGroup, if_neg, if_neg, if_neg, if_neg] <;> tauto

/-- What a quarter-round writes depends on the words of its group alone. -/
theorem getElem_applyGroup_congr (f : Quad → Quad) (x y : Words16) (g : LaneGroup) (k : Nat) (hk : k < 16)
    (hxy : ∀ j (hj : j < 16), g.Has j → x[j] = y[j]) (h : g.Has k) : (applyGroup f x g)[k] = (applyGroup f y g)[k] := by
  have ha : x[g.ia] = y[g.ia] := hxy _ g.ia.isLt (.inl rfl)
  have hb : x[g.ib] = y[g.ib] := hxy _ g.ib.isLt (.inr (.inl rfl))
  have hc : x[g.ic] = y[g.ic] := hxy _ g.ic.isLt (.inr (.inr (.inl rfl)))
  have hd : x[g.id] = y[g.id] := hxy _ g.id.isLt (.inr (.inr (.inr rfl)))
  rw [getElem_applyGroup, getElem_applyGroup, ha, hb, hc, hd, hxy k hk h]

end Sys2Proof.Machine
end

