-- ==== Sys2Proof/Laws/Decode.lean ====
section
/-! SUPPORT. The four fields of a command word as arithmetic on its value, and the shape fields of a well-formed
instruction. -/

namespace Sys2Proof

theorem fieldOp_eq (cmd : Word) : fieldOp cmd = cmd.toNat % 16 := by simp [fieldOp]

theorem fieldCw_eq (cmd : Word) : fieldCw cmd = cmd.toNat / 16 % 8 := by
  simp [fieldCw, Nat.shiftRight_eq_div_pow]

theorem fieldNw_eq (cmd : Word) : fieldNw cmd = cmd.toNat / 128 % 8 := by
  simp [fieldNw, Nat.shiftRight_eq_div_pow]

theorem fieldRsvd_eq (cmd : Word) : fieldRsvd cmd = cmd.toNat / 1024 := by
  have := cmd.isLt
  simp only [fieldRsvd, BitVec.extractLsb'_toNat, Nat.shiftRight_eq_div_pow]
  omega

/-- The shape fields of a well-formed instruction fit their three bits. -/
theorem shape_lt_of_wf {i : Instr} (h : i.wf = true) : shapeCw i < 8 ∧ shapeNw i < 8 := by
  cases i <;> simp_all [shapeCw, shapeNw, Instr.wf]

end Sys2Proof
end

