-- ==== Sys2Proof/Laws/State.lean ====
section
/-! SUPPORT. One lemma per field of the state and per update of it, so that no later proof unfolds a record update. -/

namespace Sys2Proof.Machine

variable (s : State)

@[simp] theorem State.answered_cfg (rsp : Response) : (s.answered rsp).cfg = s.cfg := rfl
@[simp] theorem State.answered_port (rsp : Response) : (s.answered rsp).port = s.port := rfl
@[simp] theorem State.answered_accepted (rsp : Response) : (s.answered rsp).accepted = none := rfl
@[simp] theorem State.answered_x (rsp : Response) : (s.answered rsp).x = none := rfl
@[simp] theorem State.answered_quad (rsp : Response) : (s.answered rsp).quad = none := rfl
@[simp] theorem State.answered_resp (rsp : Response) : (s.answered rsp).resp = some rsp := rfl

@[simp] theorem State.accept_cfg (r : Request) : (s.accept r).cfg = s.cfg := rfl
@[simp] theorem State.accept_port (r : Request) : (s.accept r).port = none := rfl
@[simp] theorem State.accept_accepted (r : Request) : (s.accept r).accepted = some r := rfl
@[simp] theorem State.accept_x (r : Request) : (s.accept r).x = none := rfl
@[simp] theorem State.accept_quad (r : Request) : (s.accept r).quad = none := rfl
@[simp] theorem State.accept_resp (r : Request) : (s.accept r).resp = none := rfl

@[simp] theorem State.loadArray_cfg (v : Words16) : (s.loadArray v).cfg = s.cfg := rfl
@[simp] theorem State.loadArray_port (v : Words16) : (s.loadArray v).port = s.port := rfl
@[simp] theorem State.loadArray_accepted (v : Words16) : (s.loadArray v).accepted = s.accepted := rfl
@[simp] theorem State.loadArray_x (v : Words16) : (s.loadArray v).x = some v := rfl
@[simp] theorem State.loadArray_quad (v : Words16) : (s.loadArray v).quad = s.quad := rfl
@[simp] theorem State.loadArray_resp (v : Words16) : (s.loadArray v).resp = s.resp := rfl

@[simp] theorem State.mapArray_cfg (f : Words16 → Words16) : (s.mapArray f).cfg = s.cfg := rfl
@[simp] theorem State.mapArray_port (f : Words16 → Words16) : (s.mapArray f).port = s.port := rfl
@[simp] theorem State.mapArray_accepted (f : Words16 → Words16) : (s.mapArray f).accepted = s.accepted := rfl
@[simp] theorem State.mapArray_x (f : Words16 → Words16) : (s.mapArray f).x = s.x.map f := rfl
@[simp] theorem State.mapArray_quad (f : Words16 → Words16) : (s.mapArray f).quad = s.quad := rfl
@[simp] theorem State.mapArray_resp (f : Words16 → Words16) : (s.mapArray f).resp = s.resp := rfl

@[simp] theorem State.loadQuad_cfg (q : Quad) : (s.loadQuad q).cfg = s.cfg := rfl
@[simp] theorem State.loadQuad_port (q : Quad) : (s.loadQuad q).port = s.port := rfl
@[simp] theorem State.loadQuad_accepted (q : Quad) : (s.loadQuad q).accepted = s.accepted := rfl
@[simp] theorem State.loadQuad_x (q : Quad) : (s.loadQuad q).x = s.x := rfl
@[simp] theorem State.loadQuad_quad (q : Quad) : (s.loadQuad q).quad = some q := rfl
@[simp] theorem State.loadQuad_resp (q : Quad) : (s.loadQuad q).resp = s.resp := rfl

@[simp] theorem State.mapQuad_cfg (f : Quad → Quad) : (s.mapQuad f).cfg = s.cfg := rfl
@[simp] theorem State.mapQuad_port (f : Quad → Quad) : (s.mapQuad f).port = s.port := rfl
@[simp] theorem State.mapQuad_accepted (f : Quad → Quad) : (s.mapQuad f).accepted = s.accepted := rfl
@[simp] theorem State.mapQuad_x (f : Quad → Quad) : (s.mapQuad f).x = s.x := rfl
@[simp] theorem State.mapQuad_quad (f : Quad → Quad) : (s.mapQuad f).quad = s.quad.map f := rfl
@[simp] theorem State.mapQuad_resp (f : Quad → Quad) : (s.mapQuad f).resp = s.resp := rfl

@[simp] theorem State.assertReset_cfg : s.assertReset.cfg = s.cfg := rfl
@[simp] theorem State.assertReset_port : s.assertReset.port = s.port := rfl
@[simp] theorem State.assertReset_accepted : s.assertReset.accepted = none := rfl
@[simp] theorem State.assertReset_x : s.assertReset.x = none := rfl
@[simp] theorem State.assertReset_quad : s.assertReset.quad = none := rfl
@[simp] theorem State.assertReset_resp : s.assertReset.resp = none := rfl

@[simp] theorem State.resetWith_cfg (c : Capacity) : (State.resetWith c).cfg = c := rfl
@[simp] theorem State.resetWith_port (c : Capacity) : (State.resetWith c).port = none := rfl
@[simp] theorem State.resetWith_accepted (c : Capacity) : (State.resetWith c).accepted = none := rfl
@[simp] theorem State.resetWith_x (c : Capacity) : (State.resetWith c).x = none := rfl
@[simp] theorem State.resetWith_quad (c : Capacity) : (State.resetWith c).quad = none := rfl
@[simp] theorem State.resetWith_resp (c : Capacity) : (State.resetWith c).resp = none := rfl

/-- Answering overwrites whatever an earlier load or answer left in the fields it writes. -/
@[simp] theorem State.answered_answered (a b : Response) : (s.answered a).answered b = s.answered b := rfl
@[simp] theorem State.answered_loadArray (v : Words16) (a : Response) : (s.loadArray v).answered a = s.answered a := rfl
@[simp] theorem State.answered_mapArray (f : Words16 → Words16) (a : Response) :
    (s.mapArray f).answered a = s.answered a := rfl
@[simp] theorem State.answered_loadQuad (q : Quad) (a : Response) : (s.loadQuad q).answered a = s.answered a := rfl
@[simp] theorem State.answered_mapQuad (f : Quad → Quad) (a : Response) :
    (s.mapQuad f).answered a = s.answered a := rfl

/-- Accepting forgets everything but the capacities: it is the same after any earlier answer and after reset. -/
theorem State.accept_eq (r : Request) (t : State) (h : t.cfg = s.cfg) : s.accept r = t.accept r := by
  simp [State.accept, h]

end Sys2Proof.Machine
end

