-- ==== Sys2Proof/Laws/Ops.lean ====
section
/-! SUPPORT. What each shared operation can do, said once: the delivery of results, the counted reads of the operand
ports, and the reads of the result ports. -/

namespace Sys2Proof.Machine

variable {s t : State}

@[simp] theorem respond_eq (rsp : Response) (s : State) : respond rsp s = .next (s.answered rsp) := rfl

@[simp] theorem raise_eq (e : Status) (s : State) : raise e s = .next (s.answered (Response.error e)) := rfl

/-- R31: an array that was loaded and mapped is delivered mapped, and the rest of the state is as an answer leaves it. -/
@[simp] theorem deliverArray_mapArray_loadArray (f : Words16 → Words16) (v : Words16) (s : State) :
    deliverArray ((s.loadArray v).mapArray f) = .next (s.answered (Response.words (f v).toList)) := rfl

/-- R31: a quadruple that was loaded and mapped is delivered mapped. -/
@[simp] theorem deliverQuad_mapQuad_loadQuad (f : Quad → Quad) (q : Quad) (s : State) :
    deliverQuad ((s.loadQuad q).mapQuad f) =
      .next (s.answered (Response.words [(f q).a, (f q).b, (f q).c, (f q).d])) := rfl

/-! ### Counted lanes -/

theorem laneVector_eq_none {α : Type} {n : Nat} {l : List α} (h : l.length ≠ n) : laneVector n l = none := by
  simp [laneVector, h]

theorem laneVector_eq_some {α : Type} {n : Nat} {l : List α} (h : l.length = n) :
    laneVector n l = some ⟨l.toArray, by simpa using h⟩ := by
  simp [laneVector, h]

@[simp] theorem laneVector_toList {α : Type} {n : Nat} (v : Vector α n) : laneVector n v.toList = some v := by
  rw [laneVector_eq_some (by simp)]
  rfl

/-- A list of `n` lanes is the list of exactly one vector. -/
theorem exists_vector_of_length {α : Type} {n : Nat} {l : List α} (h : l.length = n) : ∃ v : Vector α n, l = v.toList :=
  ⟨⟨l.toArray, by simpa using h⟩, by simp⟩

/-! ### Operand forms -/

theorem withRequest_of_accepted {r : Request} (h : s.accepted = some r) (k : Request → Result) :
    withRequest s k = k r := by simp [withRequest, h]

theorem withWords_of_length_ne {r : Request} {n : Nat} (h : s.accepted = some r) (hn : r.win.length ≠ n)
    (k : Vector Word n → Result) : withWords n s k = .next (s.answered (Response.error .lengthError)) := by
  simp [withWords, withRequest, h, laneVector_eq_none hn]

theorem withBytes_of_length_ne {r : Request} {n : Nat} (h : s.accepted = some r) (hn : r.bin.length ≠ n)
    (k : Vector Byte n → Result) : withBytes n s k = .next (s.answered (Response.error .lengthError)) := by
  simp [withBytes, withRequest, h, laneVector_eq_none hn]

theorem withWords_of_toList {r : Request} {n : Nat} {v : Vector Word n} (h : s.accepted = some r)
    (hv : r.win = v.toList) (k : Vector Word n → Result) : withWords n s k = k v := by
  simp [withWords, withRequest, h, hv]

theorem withBytes_of_toList {r : Request} {n : Nat} {v : Vector Byte n} (h : s.accepted = some r)
    (hv : r.bin = v.toList) (k : Vector Byte n → Result) : withBytes n s k = k v := by
  simp [withBytes, withRequest, h, hv]

/-- Everything a counted read of the Word port can do: no request, a wrong count, or the lanes. -/
theorem withWords_cases (n : Nat) (s : State) (k : Vector Word n → Result) :
    (s.accepted = none ∧ withWords n s k = .fault .noRequest) ∨
    (∃ r, s.accepted = some r ∧ r.win.length ≠ n ∧
      withWords n s k = .next (s.answered (Response.error .lengthError))) ∨
    ∃ r v, s.accepted = some r ∧ r.win = v.toList ∧ withWords n s k = k v := by
  cases h : s.accepted with
  | none => simp [withWords, withRequest, h]
  | some r =>
    by_cases hn : r.win.length = n
    · obtain ⟨v, hv⟩ := exists_vector_of_length hn
      exact .inr (.inr ⟨r, v, rfl, hv, withWords_of_toList h hv k⟩)
    · exact .inr (.inl ⟨r, rfl, hn, withWords_of_length_ne h hn k⟩)

/-- Everything a counted read of the byte port can do: no request, a wrong count, or the lanes. -/
theorem withBytes_cases (n : Nat) (s : State) (k : Vector Byte n → Result) :
    (s.accepted = none ∧ withBytes n s k = .fault .noRequest) ∨
    (∃ r, s.accepted = some r ∧ r.bin.length ≠ n ∧
      withBytes n s k = .next (s.answered (Response.error .lengthError))) ∨
    ∃ r v, s.accepted = some r ∧ r.bin = v.toList ∧ withBytes n s k = k v := by
  cases h : s.accepted with
  | none => simp [withBytes, withRequest, h]
  | some r =>
    by_cases hn : r.bin.length = n
    · obtain ⟨v, hv⟩ := exists_vector_of_length hn
      exact .inr (.inr ⟨r, v, rfl, hv, withBytes_of_toList h hv k⟩)
    · exact .inr (.inl ⟨r, rfl, hn, withBytes_of_length_ne h hn k⟩)

/-! ### Reads of the result ports -/

theorem readResponse_of_none (h : s.resp = none) : readResponse s = .error .noValue := by simp [readResponse, h]

theorem readResponse_of_some {rsp : Response} (h : s.resp = some rsp) : readResponse s = .ok rsp := by
  simp [readResponse, h]

theorem laneAt_of_length_le {α : Type} {l : List α} {i : Nat} (h : l.length ≤ i) : laneAt l i = .error .noValue := by
  simp [laneAt, List.getElem?_eq_none h]

theorem laneAt_of_getElem? {α : Type} {l : List α} {i : Nat} {v : α} (h : l[i]? = some v) : laneAt l i = .ok v := by
  simp [laneAt, h]

/-- R29: while the result ports hold no value, every read of them faults. -/
theorem reads_fault_of_none (h : s.resp = none) :
    readStatus s = .error .noValue ∧ readWocnt s = .error .noValue ∧ readBocnt s = .error .noValue ∧
      ∀ i, readWout i s = .error .noValue ∧ readBout i s = .error .noValue := by
  simp [readStatus, readWocnt, readBocnt, readWout, readBout, readResponse_of_none h, Except.map]

/-! ### Presenting, accepting and loading -/

theorem presentable_iff (cfg : Capacity) (r : Request) :
    r.presentable cfg = true ↔ r.win.length ≤ cfg.maxW ∧ r.bin.length ≤ cfg.maxB := by
  simp [Request.presentable]

theorem present_next_iff (r : Request) (s s' : State) :
    present r s = .next s' ↔ r.presentable s.cfg = true ∧ s' = { s with port := some r } := by
  by_cases h : r.presentable s.cfg = true
  · simp only [present, h, ↓reduceIte, Host.Outcome.next.injEq, true_and]
    exact eq_comm
  · simp [present, h]

theorem acceptPort_next_iff (r : Request) (s s' : State) :
    acceptPort r s = .next s' ↔ r.presentable s.cfg = true ∧ s' = s.accept r := by
  by_cases h : r.presentable s.cfg = true
  · simp only [acceptPort, h, ↓reduceIte, Host.Outcome.next.injEq, true_and]
    exact eq_comm
  · simp [acceptPort, h]

/-- R26: within the capacities the 8-bit count ports say the numbers of lanes exactly. -/
theorem counts_exact {cfg : Capacity} (hc : cfg.Legal) {r : Request} (h : r.presentable cfg = true) :
    r.wcnt.toNat = r.win.length ∧ r.bcnt.toNat = r.bin.length := by
  obtain ⟨hw, hb⟩ := (presentable_iff cfg r).1 h
  have := hc.maxW_le
  have := hc.maxB_le
  constructor <;> simp only [Request.wcnt, Request.bcnt, BitVec.toNat_ofNat] <;> omega

end Sys2Proof.Machine
end

