-- ==== Sys2Proof/Laws/Exec.lean ====
section
/-! SUPPORT. What an instruction and a step can do, said once: every meaning delivers one sound response and nothing
else, or faults because there is no request. -/

namespace Sys2Proof.Machine

/-- The outcome delivers one sound response of `s`'s request and changes nothing else. -/
def Delivers (s : State) (o : Result) : Prop := ∃ rsp, rsp.Sound ∧ o = .next (s.answered rsp)

theorem Response.error_sound (e : Status) : (Response.error e).Sound :=
  ⟨fun _ => ⟨rfl, rfl⟩, .inl rfl, by simp [Response.error], by simp [Response.error]⟩

theorem Response.nothing_sound : Response.nothing.Sound :=
  ⟨fun _ => ⟨rfl, rfl⟩, .inl rfl, by simp [Response.nothing], by simp [Response.nothing]⟩

theorem Response.words_sound {ws : List Word} (h : ws.length ≤ 16) : (Response.words ws).Sound :=
  ⟨by simp [Response.words], .inr rfl, h, by simp [Response.words]⟩

theorem Response.bytes_sound {bs : List Byte} (h : bs.length ≤ 64) : (Response.bytes bs).Sound :=
  ⟨by simp [Response.bytes], .inl rfl, by simp [Response.bytes], h⟩

/-- A counted read of the Word port delivers if what follows it does on every vector of lanes. -/
theorem withWords_delivers {s : State} {n : Nat} {k : Vector Word n → Result} (hs : s.accepted ≠ none)
    (hk : ∀ v, Delivers s (k v)) : Delivers s (withWords n s k) := by
  rcases withWords_cases n s k with ⟨h, _⟩ | ⟨r, _, _, h⟩ | ⟨r, v, _, _, h⟩
  · exact absurd h hs
  · exact ⟨_, Response.error_sound _, h⟩
  · exact h ▸ hk v

/-- A counted read of the byte port delivers if what follows it does on every vector of lanes. -/
theorem withBytes_delivers {s : State} {n : Nat} {k : Vector Byte n → Result} (hs : s.accepted ≠ none)
    (hk : ∀ v, Delivers s (k v)) : Delivers s (withBytes n s k) := by
  rcases withBytes_cases n s k with ⟨h, _⟩ | ⟨r, _, _, h⟩ | ⟨r, v, _, _, h⟩
  · exact absurd h hs
  · exact ⟨_, Response.error_sound _, h⟩
  · exact h ▸ hk v

theorem execBuild_delivers {s : State} (hs : s.accepted ≠ none) (c n : Nat) : Delivers s (execBuild c n s) := by
  obtain ⟨r, hr⟩ := Option.ne_none_iff_exists'.1 hs
  rw [execBuild, withRequest_of_accepted hr]
  split
  · next h =>
    have : 8 + c + n = 12 := by simp [shapeOk] at h; omega
    exact withWords_delivers hs fun v => ⟨_, Response.words_sound (by simp [buildLanes, this]), rfl⟩
  · exact ⟨_, Response.error_sound _, rfl⟩

theorem execSplit_delivers {s : State} (hs : s.accepted ≠ none) (c n : Nat) : Delivers s (execSplit c n s) := by
  obtain ⟨r, hr⟩ := Option.ne_none_iff_exists'.1 hs
  rw [execSplit, withRequest_of_accepted hr]
  split
  · exact withWords_delivers hs fun v => ⟨_, Response.words_sound (by simp [splitLanes]), rfl⟩
  · exact ⟨_, Response.error_sound _, rfl⟩

/-- A quadruple mapped and delivered is a response of four Words. -/
theorem deliverQuad_delivers (f : Quad → Quad) (q : Quad) (s : State) :
    Delivers s (deliverQuad ((s.loadQuad q).mapQuad f)) :=
  ⟨_, Response.words_sound (ws := [(f q).a, (f q).b, (f q).c, (f q).d]) (by simp), by simp⟩

/-- An array mapped and delivered is a response of sixteen Words. -/
theorem deliverArray_delivers (f : Words16 → Words16) (v : Words16) (s : State) :
    Delivers s (deliverArray ((s.loadArray v).mapArray f)) :=
  ⟨_, Response.words_sound (ws := (f v).toList) (by simp), by simp⟩

/-- Every instruction delivers a sound response of the request in progress. -/
theorem exec_delivers {s : State} (hs : s.accepted ≠ none) (i : Instr) : Delivers s (exec i s) := by
  cases i with
  | w2b => exact withWords_delivers hs fun v => ⟨_, Response.bytes_sound (by simp), rfl⟩
  | b2w => exact withBytes_delivers hs fun b => ⟨_, Response.words_sound (ws := [bytesToWord b]) (by simp), rfl⟩
  | b2s => exact withBytes_delivers hs fun b => ⟨_, Response.words_sound (by simp), rfl⟩
  | s2b => exact withWords_delivers hs fun v => ⟨_, Response.bytes_sound (by simp), rfl⟩
  | qrf => exact withWords_delivers hs fun v => deliverQuad_delivers _ _ s
  | qri => exact withWords_delivers hs fun v => deliverQuad_delivers _ _ s
  | permf => exact withWords_delivers hs fun v => deliverArray_delivers _ _ s
  | permi => exact withWords_delivers hs fun v => deliverArray_delivers _ _ s
  | build c n => exact execBuild_delivers hs c n
  | split c n => exact execSplit_delivers hs c n
  | hdrchk =>
    refine withWords_delivers hs fun v => ?_
    split
    · exact ⟨_, Response.nothing_sound, rfl⟩
    · exact ⟨_, Response.error_sound _, rfl⟩

/-- U6: without a request in progress there is nothing to answer. -/
theorem exec_of_idle {s : State} (hs : s.accepted = none) (i : Instr) : exec i s = .fault .noRequest := by
  cases i <;> simp [exec, execW2b, execB2w, execB2s, execS2b, execQrf, execQri, execPermf, execPermi, execBuild,
    execSplit, execHdrchk, withWords, withBytes, withRequest, hs]

/-- R27, R67: the 8-bit count ports say the numbers of result lanes of a sound response exactly. -/
theorem Response.Sound.counts_exact {rsp : Response} (h : rsp.Sound) :
    rsp.wocnt.toNat = rsp.wout.length ∧ rsp.bocnt.toNat = rsp.bout.length := by
  have := h.wout_le
  have := h.bout_le
  constructor <;> simp only [Response.wocnt, Response.bocnt, BitVec.toNat_ofNat] <;> omega

/-! ### Steps -/

theorem step_of_decoded {s : State} {r : Request} {i : Instr} (hs : s.accepted = some r) (hd : decode r.cmd = .ok i) :
    step s = exec i s := by simp [step, hs, hd]

theorem step_of_illegal {s : State} {r : Request} {e : Illegal} (hs : s.accepted = some r)
    (hd : decode r.cmd = .error e) : step s = .next (s.answered (Response.error .illegalCommand)) := by
  simp [step, hs, hd]

theorem step_of_port {s : State} {r : Request} (hs : s.accepted = none) (hp : s.port = some r) :
    step s = acceptPort r s := by simp [step, hs, hp]

theorem step_of_quiet {s : State} (hs : s.accepted = none) (hp : s.port = none) : step s = .next s := by
  simp [step, hs, hp]

/-- Everything a step can do: answer the request in progress, accept the presented one, turn it away, or wait. -/
theorem step_cases (s : State) :
    (s.accepted ≠ none ∧ Delivers s (step s)) ∨
    (∃ r, s.accepted = none ∧ s.port = some r ∧ r.presentable s.cfg = true ∧ step s = .next (s.accept r)) ∨
    (∃ r, s.accepted = none ∧ s.port = some r ∧ r.presentable s.cfg = false ∧ step s = .refused .notPresentable) ∨
    (s.accepted = none ∧ s.port = none ∧ step s = .next s) := by
  cases hs : s.accepted with
  | some r =>
    refine .inl ⟨by simp, ?_⟩
    cases hd : decode r.cmd with
    | ok i => rw [step_of_decoded hs hd]; exact exec_delivers (by simp [hs]) i
    | error e => exact ⟨_, Response.error_sound _, step_of_illegal hs hd⟩
  | none =>
    cases hp : s.port with
    | none => exact .inr (.inr (.inr ⟨rfl, rfl, step_of_quiet hs hp⟩))
    | some r =>
      cases hr : r.presentable s.cfg with
      | true => exact .inr (.inl ⟨r, rfl, rfl, hr, by rw [step_of_port hs hp, acceptPort, if_pos hr]⟩)
      | false => exact .inr (.inr (.inl ⟨r, rfl, rfl, hr, by rw [step_of_port hs hp, acceptPort, hr]; simp⟩))

end Sys2Proof.Machine
end

