-- ==== Sys2Proof/Laws/PerInstr.lean ====
section
/-! SUPPORT. What holds of every instruction as syntax, one lemma per constructor. The family EncodeFields: the command
word of a well-formed instruction is the sum of its fields, OP + 16 CW + 128 NW, and RSVD is 0 (spec 30_encoding.md R61,
R64, R69). -/

namespace Sys2Proof.Laws.EncodeFields

/-- The command word is the sum of its three fields. -/
def Statement (i : Instr) : Prop :=
  i.wf = true → (encode i).toNat = (opCode i).toNat + 16 * shapeCw i + 128 * shapeNw i

/-- The fields as they are laid out, for every value of each. -/
theorem fields_toNat (op : BitVec 4) (c n : Nat) (hc : c < 8) (hn : n < 8) :
    ((0 : BitVec 22) ++ BitVec.ofNat 3 n ++ BitVec.ofNat 3 c ++ op).toNat = op.toNat + 16 * c + 128 * n := by
  revert op
  interval_cases c <;> interval_cases n <;> decide

theorem w2b : Statement .w2b := fun _ => fields_toNat 0x1 0 0 (by decide) (by decide)
theorem b2w : Statement .b2w := fun _ => fields_toNat 0x2 0 0 (by decide) (by decide)
theorem b2s : Statement .b2s := fun _ => fields_toNat 0x3 0 0 (by decide) (by decide)
theorem s2b : Statement .s2b := fun _ => fields_toNat 0x4 0 0 (by decide) (by decide)
theorem qrf : Statement .qrf := fun _ => fields_toNat 0x5 0 0 (by decide) (by decide)
theorem qri : Statement .qri := fun _ => fields_toNat 0x6 0 0 (by decide) (by decide)
theorem permf : Statement .permf := fun _ => fields_toNat 0x7 0 0 (by decide) (by decide)
theorem permi : Statement .permi := fun _ => fields_toNat 0x8 0 0 (by decide) (by decide)
theorem build (cw nw : Nat) : Statement (.build cw nw) := fun h => by
  simp only [Instr.wf, Bool.and_eq_true, decide_eq_true_eq] at h
  exact fields_toNat 0x9 cw nw h.1 h.2
theorem split (cw nw : Nat) : Statement (.split cw nw) := fun h => by
  simp only [Instr.wf, Bool.and_eq_true, decide_eq_true_eq] at h
  exact fields_toNat 0xA cw nw h.1 h.2
theorem hdrchk : Statement .hdrchk := fun _ => fields_toNat 0xB 0 0 (by decide) (by decide)

end Sys2Proof.Laws.EncodeFields
end

