-- ==== Sys2Proof/Tests/Slice0.lean ====
section
/-! SUPPORT. The model's own tests. Expected results are the spec's: the tables of 95_test_vectors.md (named by section)
or the rule cited. The witnesses at the end show, for every statement with hypotheses, a state and operands that meet
them all. -/

namespace Sys2Proof.Tests

open Sys2Proof.Machine

/-- A unit just after reset that has accepted one request. -/
def busy (cmd : Word) (win : List Word) (bin : List Byte) : State := State.reset.accept ⟨cmd, win, bin⟩

/-- A unit just after reset whose caller presents one request. -/
def offered (cmd : Word) (win : List Word) (bin : List Byte) : State :=
  { State.reset with port := some ⟨cmd, win, bin⟩ }

/-- The response an outcome leaves on the result ports. -/
def respOf : Result → Option Response
  | .next s => s.resp
  | .fault _ => none
  | .refused _ => none

/-- The response to one request. -/
def answer (cmd : Word) (win : List Word) (bin : List Byte) : Option Response := respOf (step (busy cmd win bin))

/-! ### WellFormed: an ill-formed term for each check -/

theorem test_wf_build_cw : (Instr.build 8 0).wf = false := by decide
theorem test_wf_build_nw : (Instr.build 0 8).wf = false := by decide
theorem test_wf_split_cw : (Instr.split 8 0).wf = false := by decide
theorem test_wf_split_nw : (Instr.split 0 8).wf = false := by decide
theorem test_wf_illegal_shape_is_well_formed : (Instr.build 7 7).wf = true := by decide

/-! ### Decode: every constructor from its bits, RSVD, NW, CW, OP as R61 lays them out -/

theorem test_decode_w2b : decode 0b0000000000000000000000_000_000_0001 = .ok .w2b := by decide
theorem test_decode_b2w : decode 0b0000000000000000000000_000_000_0010 = .ok .b2w := by decide
theorem test_decode_b2s : decode 0b0000000000000000000000_000_000_0011 = .ok .b2s := by decide
theorem test_decode_s2b : decode 0b0000000000000000000000_000_000_0100 = .ok .s2b := by decide
theorem test_decode_qrf : decode 0b0000000000000000000000_000_000_0101 = .ok .qrf := by decide
theorem test_decode_qri : decode 0b0000000000000000000000_000_000_0110 = .ok .qri := by decide
theorem test_decode_permf : decode 0b0000000000000000000000_000_000_0111 = .ok .permf := by decide
theorem test_decode_permi : decode 0b0000000000000000000000_000_000_1000 = .ok .permi := by decide
theorem test_decode_build : decode 0b0000000000000000000000_011_001_1001 = .ok (.build 1 3) := by decide
theorem test_decode_split : decode 0b0000000000000000000000_111_100_1010 = .ok (.split 4 7) := by decide
theorem test_decode_hdrchk : decode 0b0000000000000000000000_000_000_1011 = .ok .hdrchk := by decide

/-- 95_test_vectors.md section 2.5, and the reasons of R65. -/
theorem test_decode_illegal :
    decode 0x00000000 = .error .reservedOp ∧ decode 0x0000000C = .error .reservedOp ∧
    decode 0x0000000F = .error .reservedOp ∧ decode 0x00000407 = .error .reservedBits ∧
    decode 0x80000007 = .error .reservedBits ∧ decode 0x00000011 = .error .shapeFields ∧
    decode 0x0000008B = .error .shapeFields := by decide

/-- R69: the example command words of the rule. -/
theorem test_encode_examples : encode (.build 2 2) = 0x00000129 ∧ encode (.build 1 3) = 0x00000199 ∧
    encode (.split 2 2) = 0x0000012A ∧ encode .permf = 0x00000007 := by decide

theorem test_table_word : decodeTableWord 32 0x19A = some (.split 1 3) ∧ decodeTableWord 32 0xC = none ∧
    decodeTableWord 8 0x107 = some .permf ∧ decodeTableWord 64 0x100000007 = none := by decide

/-! ### Reset and steps -/

theorem test_reset_waits : step State.reset = .next State.reset := by rfl

/-- A command placed right after reset runs at once; with no operand lanes it answers LENGTH_ERROR (R202). -/
theorem test_first_command_after_reset :
    respOf (step (State.reset.withFetchWord 32 0x7)) = some ⟨.lengthError, [], []⟩ := by decide

theorem test_accept_then_answer :
    respOf (step (offered 0x1 [0x01020304] [])) = none ∧
    respOf (andThen (step (offered 0x1 [0x01020304] [])) step) = some ⟨.ok, [], [0x04, 0x03, 0x02, 0x01]⟩ := by decide

/-! ### Word codec, section 2.1 -/

theorem test_w2b_msb_last : answer 0x1 [0x80000001] [] = some ⟨.ok, [], [0x01, 0x00, 0x00, 0x80]⟩ := by decide
theorem test_w2b_two_words : answer 0x1 [1, 2] [] = some ⟨.lengthError, [], []⟩ := by decide
theorem test_b2w_header : answer 0x2 [] [0x65, 0x78, 0x70, 0x61] = some ⟨.ok, [0x61707865], []⟩ := by decide
theorem test_b2w_five_bytes : answer 0x2 [] [1, 2, 3, 4, 5] = some ⟨.lengthError, [], []⟩ := by decide

/-- The bytes 00, 01, … of section 2.1's B2S rows. -/
def countingBytes (n : Nat) : List Byte := (List.range n).map (BitVec.ofNat 8)

theorem test_b2s_counting : answer 0x3 [] (countingBytes 64) = some ⟨.ok,
    [0x03020100, 0x07060504, 0x0b0a0908, 0x0f0e0d0c, 0x13121110, 0x17161514, 0x1b1a1918, 0x1f1e1d1c,
     0x23222120, 0x27262524, 0x2b2a2928, 0x2f2e2d2c, 0x33323130, 0x37363534, 0x3b3a3938, 0x3f3e3d3c], []⟩ := by
  decide +kernel
theorem test_b2s_63_and_65 : answer 0x3 [] (countingBytes 63) = some ⟨.lengthError, [], []⟩ ∧
    answer 0x3 [] (countingBytes 65) = some ⟨.lengthError, [], []⟩ := by decide +kernel

/-- S_A of section 2.3. -/
def stateA : List Word :=
  [0x61707865, 0x3320646e, 0x79622d32, 0x6b206574, 0x03020100, 0x07060504, 0x0b0a0908, 0x0f0e0d0c,
   0x13121110, 0x17161514, 0x1b1a1918, 0x1f1e1d1c, 0x00000001, 0x09000000, 0x4a000000, 0x00000000]

theorem test_s2b_state_a : answer 0x4 stateA [] = some ⟨.ok, [],
    [0x65, 0x78, 0x70, 0x61, 0x6e, 0x64, 0x20, 0x33, 0x32, 0x2d, 0x62, 0x79, 0x74, 0x65, 0x20, 0x6b] ++
    countingBytes 32 ++ [0x01, 0, 0, 0, 0, 0, 0, 0x09, 0, 0, 0, 0x4a, 0, 0, 0, 0]⟩ := by decide +kernel
theorem test_s2b_fifteen_words : answer 0x4 (stateA.take 15) [] = some ⟨.lengthError, [], []⟩ := by decide

/-! ### Quarter-rounds, section 2.2 -/

theorem test_rotations : rotl32 0x12345678 7 = 0x1a2b3c09 ∧ rotr32 0x12345678 7 = 0xf02468ac ∧
    rotl32 0x12345678 0 = 0x12345678 ∧ rotr32 0x12345678 0 = 0x12345678 ∧ rotl32 1 31 = 0x80000000 ∧
    rotr32 0x80000000 1 = 0x40000000 := by decide

theorem test_qrf_vector : answer 0x5 [0x11111111, 0x01020304, 0x9b8d6f43, 0x01234567] [] =
    some ⟨.ok, [0xea2a92f4, 0xcb1cf8ce, 0x4581472e, 0x5881c4bb], []⟩ := by decide
/-- The byte port is ignored (D10), and the sum wraps. -/
theorem test_qrf_wraps : answer 0x5 [0x80000000, 0x80000000, 0, 0] [1, 2, 3] =
    some ⟨.ok, [0x00000800, 0x04040000, 0x00080000, 0x00080000], []⟩ := by decide
theorem test_qri_underflow : answer 0x6 [1, 0, 0, 0] [] =
    some ⟨.ok, [0x00000001, 0x00000000, 0xffffffff, 0x00010001], []⟩ := by decide
theorem test_qri_vector : answer 0x6 [0x11111111, 0x01020304, 0x9b8d6f43, 0x01234567] [] =
    some ⟨.ok, [0x4f4e94a2, 0x2e33112a, 0x2459f788, 0x4fd5d3dc], []⟩ := by decide

/-! ### Permutation, section 2.3 -/

/-- The column step of the first double round. -/
theorem test_column_step : (laneVector 16 stateA).map (fun v => (applyGroups quarterRoundForward columns v).toList) =
    some [0xabbaa25c, 0x1efa51ea, 0x7354fbdf, 0x83d2dc69, 0x3a465196, 0x1c7e64f6, 0xb12fb628, 0xf05b6976,
      0x6b3ca454, 0x08eb14b1, 0xbf8a9ac9, 0xe444df3b, 0xdec62ed2, 0x8862cc77, 0x6e35b345, 0x52a647f1] := by
  decide +kernel

theorem test_permf_state_a : answer 0x7 stateA [] = some ⟨.ok,
    [0x837778ab, 0xe238d763, 0xa67ae21e, 0x5950bb2f, 0xc4f2d0c7, 0xfc62bb2f, 0x8fa018fc, 0x3f5ec7b7,
     0x335271c2, 0xf29489f3, 0xeabda8fc, 0x82e46ebd, 0xd19c12b4, 0xb04e16de, 0x9e83d0cb, 0x4e3c50a2], []⟩ := by
  decide +kernel

theorem test_permi_state_a : answer 0x8 stateA [] = some ⟨.ok,
    [0x10021877, 0x781b5714, 0x43b9bf71, 0x1c5362a5, 0x233cd993, 0x5170fab9, 0xb2e0d7f4, 0x042b393f,
     0x6fd42f3c, 0x5bdf1501, 0x5cd16f64, 0xf92a062b, 0x7d7d4e76, 0x5d10ccc5, 0xe7ad78dd, 0x93a8611f], []⟩ := by
  decide +kernel

/-! ### State builder, section 2.4 -/

theorem test_build_c1n3 : answer 0x199 (stateA.drop 4) [] = some ⟨.ok, stateA, []⟩ := by decide
/-- The shape comes before the count (R206). -/
theorem test_build_shape_before_count : answer 0xA9 (stateA.drop 5) [] = some ⟨.shapeError, [], []⟩ := by decide
theorem test_split_c2n2 : answer 0x12A stateA [] = some ⟨.ok, stateA.drop 4, []⟩ := by decide
theorem test_split_c3n1 : answer 0xBA stateA [] = some ⟨.shapeError, [], []⟩ := by decide
theorem test_hdrchk_ok : answer 0xB stateA [] = some ⟨.ok, [], []⟩ := by decide
/-- One flipped bit in word 3. -/
theorem test_hdrchk_flipped : answer 0xB (stateA.set 3 0x6b206575) [] = some ⟨.recoveryFailure, [], []⟩ := by decide
/-- The command is judged before the count (R206). -/
theorem test_illegal_before_count : answer 0x407 [1, 2, 3] [] = some ⟨.illegalCommand, [], []⟩ := by decide

/-! ### Program text (R69) -/

/-- `q: QRI %q.w ; x`. -/
theorem test_parse_reference : parseLine ['q', ':', ' ', 'Q', 'R', 'I', ' ', '%', 'q', '.', 'w', ' ', ';', ' ', 'x'] =
    .ok (some (.request ⟨some ['q'], .qri, none, some (.woutOf ['q'])⟩)) := by decide
/-- `B2W [4c 61 64 69]`, line 4 of program P4. -/
theorem test_parse_bytes : parseLine ['B', '2', 'W', ' ', '[', '4', 'c', ' ', '6', '1', ' ', '6', '4', ' ', '6', '9', ']'] =
    .ok (some (.request ⟨none, .b2w, none, some (.bytes [0x4c, 0x61, 0x64, 0x69])⟩)) := by decide
/-- `BUILD.c1n3` and the Word lanes 0x6b206574, 12. -/
theorem test_parse_words : parseLine (['B', 'U', 'I', 'L', 'D', '.', 'c', '1', 'n', '3', ' ', Char.ofNat 123, '0', 'x',
      '6', 'b', '2', '0', '6', '5', '7', '4', ',', ' ', '1', '2', Char.ofNat 125]) =
    .ok (some (.request ⟨none, .build, some (1, 3), some (.words [0x6b206574, 12])⟩)) := by decide
/-- A HOST line and a comment line assemble to nothing; a shape on QRF assembles to an error. -/
theorem test_parse_host_and_comment : parseLine ['H', 'O', 'S', 'T', ' ', 'x'] = .ok (some (.host ['x'])) ∧
    parseLine [' ', ';', 'x'] = .ok none ∧ assembleCommand .qrf (some (1, 0)) = .error .shapeNotAllowed := by decide

/-! ### Witnesses: a state and operands that meet the hypotheses of each statement together -/

/-- The state the witnesses start from meets the invariant: a QRF request of the capacity's smallest default. -/
theorem busy_qrf_inv : (busy 0x5 [1, 2, 3, 4] []).Inv :=
  ⟨⟨by decide, by decide, by decide, by decide⟩, by simp [busy], by
    intro r h
    simp only [busy, State.accept_accepted, Option.some.injEq] at h
    subst h
    decide, fun _ => rfl, by simp [busy], by simp [busy]⟩

/-- A caller's unit that meets the invariant and has nothing to do. -/
theorem quiet_inv : (State.resetWith ⟨17, 65⟩).Inv :=
  ⟨⟨by decide, by decide, by decide, by decide⟩, by simp, by simp, by simp, by simp, by simp⟩

theorem witness_ResetMeetsInvariant : (⟨17, 65⟩ : Capacity).Legal ∧ (⟨255, 255⟩ : Capacity).Legal :=
  ⟨⟨by decide, by decide, by decide, by decide⟩, ⟨by decide, by decide, by decide, by decide⟩⟩
theorem witness_StepKeepsInvariant : ∃ s s', s.Inv ∧ step s = .next s' := ⟨_, _, busy_qrf_inv, rfl⟩
theorem witness_CallerAndResetKeepInvariant : ∃ s r s', State.Inv s ∧ present r s = .next s' :=
  ⟨_, ⟨0x1, [7], []⟩, _, busy_qrf_inv, rfl⟩
theorem witness_UnitNeverStops : ∃ s : State, s.Inv := ⟨_, busy_qrf_inv⟩
theorem witness_DecodeUndoesEncode : (Instr.build 7 7).wf = true ∧ (Instr.split 0 0).wf = true := by decide
theorem witness_EncodeUndoesDecode : decode 0x3FA = .ok (.split 7 7) := by decide
theorem witness_DecodeReadsTheFields : decode 0x3F9 = .ok (.build 7 7) ∧ Claims.rsvd 0x3F9 = 0 ∧
    Claims.FieldsOf 0x3F9 (.build 7 7) := ⟨by decide, by decide, by decide, by decide, by decide⟩
/-- One illegal CMD for each clause of R65, at the edge of its range. -/
theorem witness_IllegalCommandsAreReported : Claims.IllegalCmd 0x0 ∧ Claims.IllegalCmd 0xC ∧ Claims.IllegalCmd 0x407 ∧
    Claims.IllegalCmd 0x11 ∧ Claims.IllegalCmd 0x8B ∧
    ∃ s r, State.accepted s = some r ∧ r.cmd = 0x11 :=
  ⟨.inl (by decide), .inr (.inl (by decide)), .inr (.inr (.inl (by decide))),
   .inr (.inr (.inr ⟨by decide, by decide, .inl (by decide)⟩)),
   .inr (.inr (.inr ⟨by decide, by decide, .inr (by decide)⟩)), busy 0x11 [] [], _, rfl, rfl⟩
theorem witness_AssembledCommandIsFieldSum : assembleCommand .build (some (7, 7)) = .ok 0x3F9 ∧
    assembleCommand .split (some (8, 0)) = .error .shapeTooWide ∧ assembleCommand .build none = .ok 0x129 ∧
    assembleCommand .split none = .ok 0x12A ∧ assembleCommand .hdrchk none = .ok 0xB := by decide
theorem witness_StepRunsTheDecodedInstruction :
    (∃ s r i, State.accepted s = some r ∧ decode r.cmd = .ok i) ∧
    ∃ s r i, State.accepted s = none ∧ s.port = some r ∧ r.presentable s.cfg = true ∧ decode r.cmd = .ok i :=
  ⟨⟨busy 0x5 [] [], _, .qrf, rfl, by decide⟩, ⟨offered 0x5 [] [], _, .qrf, rfl, rfl, by decide, by decide⟩⟩
theorem witness_LoadedCommandRunsNext : (0x12A : Nat) < 2 ^ 32 ∧ decode (BitVec.ofNat 32 0x12A) = .ok (.split 2 2) := by
  decide
theorem witness_ResultsHoldUntilNextAcceptance :
    (∃ s, State.accepted s = none ∧ s.port = none ∧ s.resp ≠ none) ∧
    (∃ s r s', State.accepted s = none ∧ present r s = .next s') ∧
    ∃ s r, State.accepted s = none ∧ s.port = some r ∧ r.presentable s.cfg = true :=
  ⟨⟨(busy 0x1 [1] []).answered Response.nothing, rfl, rfl, by decide⟩, ⟨State.reset, ⟨0x1, [1], []⟩, _, rfl, rfl⟩,
   ⟨offered 0x1 [1] [], _, rfl, rfl, by decide⟩⟩
/-- The last lane below the count, and the count itself. -/
theorem witness_LanesBeyondTheCountHoldNoValue :
    ∃ s rsp, State.resp s = some rsp ∧ rsp.wout[0]? = some 7 ∧ rsp.wout.length ≤ 1 ∧ rsp.bout.length ≤ 0 :=
  ⟨State.reset.answered (Response.words [7]), _, rfl, by decide, by decide, by decide⟩
/-- The smallest capacity and one lane too many. -/
theorem witness_OversizedRequestsAreTurnedAway :
    ∃ s : State, ∃ r : Request, s.cfg.maxW < r.win.length ∧ s.accepted = none ∧ s.port = some r :=
  ⟨{ State.resetWith ⟨17, 65⟩ with port := some ⟨0x7, List.replicate 18 0, []⟩ }, _, by decide, rfl, rfl⟩
theorem witness_ResetAbandonsTheRequest : (⟨0x5, [1, 2, 3, 4], []⟩ : Request).presentable (busy 0x7 [] []).cfg = true := by
  decide
theorem witness_AcceptanceAfterAnyResponseIsAsAfterReset : ∃ s, State.accepted s = none ∧ s.resp ≠ none :=
  ⟨State.reset.answered (Response.error .shapeError), rfl, by decide⟩
/-- One request for each check of R206 that fails, each with every later check failing too where it can, and one for OK. -/
theorem witness_StatusFollowsThePriority :
    (∃ s r, State.accepted s = some r ∧ Claims.Decides r .illegalCommand) ∧
    (∃ s r, State.accepted s = some r ∧ Claims.Decides r .shapeError) ∧
    (∃ s r, State.accepted s = some r ∧ Claims.Decides r .lengthError) ∧
    (∃ s r, State.accepted s = some r ∧ Claims.Decides r .recoveryFailure) ∧
    ∃ s r, State.accepted s = some r ∧ Claims.Decides r .ok :=
  ⟨⟨busy 0x40B [] [], _, rfl, rfl⟩,
   ⟨busy 0xA9 [] [], _, rfl, .inl ⟨show ¬ Claims.LegalShape 2 1 by simp [Claims.LegalShape], rfl⟩⟩,
   ⟨busy 0xB [] [], _, rfl, .inr (.inl ⟨trivial, by simp [Claims.CountOk], rfl⟩)⟩,
   ⟨busy 0xB (stateA.set 0 0) [], _, rfl, .inr (.inr (.inl ⟨trivial, rfl, by simp [Claims.HeaderFine, Claims.header, stateA], rfl⟩))⟩,
   ⟨busy 0xB stateA [], _, rfl, .inr (.inr (.inr ⟨trivial, rfl, rfl, rfl⟩))⟩⟩
/-- Both sides of the required count. -/
theorem witness_WrongCountsGiveLengthError : ∃ s r, State.accepted s = some r ∧ Claims.ShapeFine .b2s ∧
    ¬ Claims.CountOk r .b2s ∧ Claims.ShapeFine (.build 1 3) ∧ ¬ Claims.CountOk r (.build 1 3) :=
  ⟨busy 0x3 (List.replicate 11 0) (List.replicate 63 0), _, rfl, trivial, by simp [Claims.CountOk],
   .inl ⟨rfl, rfl⟩, by simp [Claims.CountOk]⟩
theorem witness_IllegalShapesGiveShapeError : ¬ Claims.LegalShape 3 1 ∧ ¬ Claims.LegalShape 0 4 ∧ ¬ Claims.LegalShape 4 0 ∧
    ¬ Claims.LegalShape 2 1 ∧ Claims.LegalShape 1 3 ∧ Claims.LegalShape 2 2 ∧
    ∃ s r, State.accepted s = some r :=
  ⟨by simp [Claims.LegalShape], by simp [Claims.LegalShape], by simp [Claims.LegalShape], by simp [Claims.LegalShape],
   .inl ⟨rfl, rfl⟩, .inr ⟨rfl, rfl⟩, busy 0xB9 [] [], _, rfl⟩
theorem witness_ErrorResponsesCarryNoLanes : ∃ s t rsp, State.accepted s ≠ none ∧ step s = .next t ∧ t.resp = some rsp ∧
    rsp.status ≠ .ok := ⟨busy 0x1 [] [], _, _, by decide, rfl, rfl, by decide⟩
theorem witness_OperationsChangeOnlyTheResponse : ∃ s t, exec .w2b s = .next t := ⟨busy 0x1 [7] [], _, rfl⟩
theorem witness_ResponseDependsOnRequestAlone : ∃ s₁ s₂ r, State.accepted s₁ = some r ∧ State.accepted s₂ = some r ∧
    s₁ ≠ s₂ :=
  ⟨busy 0x1 [7] [], { busy 0x1 [7] [] with quad := some ⟨1, 2, 3, 4⟩ }, _, rfl, rfl, by decide⟩
theorem witness_PortsAreSampledOnce : (∃ s t, State.accepted s ≠ none ∧ step s = .next t) ∧
    ∃ s r, State.accepted s = none ∧ s.port = some r ∧ r.presentable s.cfg = true :=
  ⟨⟨busy 0x1 [7] [], _, by decide, rfl⟩, ⟨offered 0x1 [7] [], _, rfl, rfl, by decide⟩⟩
theorem witness_HiddenStateStartsFreshAndVanishes : ∃ s, State.accepted s ≠ none := ⟨busy 0x7 stateA [], by decide⟩
/-- The encoding clauses of the eleven operations: a CMD with the OP value of W2B and another one of BUILD, both illegal,
and a request with each. -/
theorem witness_encoding_clauses : (Claims.op 0x11 = Claims.op 0x1 ∧ (0x11 : Word) ≠ 0x1) ∧
    (Claims.op 0x409 = 9 ∧ Claims.rsvd 0x409 ≠ 0) ∧ ∀ cmd, ∃ s r, State.accepted s = some r ∧ r.cmd = cmd :=
  ⟨by decide, by decide, fun cmd => ⟨busy cmd [] [], _, rfl, rfl⟩⟩
theorem witness_W2bGivesTheBytesOfTheWord : (∃ s r, State.accepted s = some r ∧ r.win = [7]) ∧
    (∃ s r, State.accepted s = some r ∧ r.win.length = 0) ∧ ∃ s r, State.accepted s = some r ∧ r.win.length = 2 :=
  ⟨⟨busy 1 [7] [], _, rfl, rfl⟩, ⟨busy 1 [] [], _, rfl, rfl⟩, ⟨busy 1 [7, 8] [], _, rfl, rfl⟩⟩
theorem witness_B2wGivesTheWordOfTheBytes : (∃ s r, State.accepted s = some r ∧ r.bin = [1, 2, 3, 4]) ∧
    (∃ s r, State.accepted s = some r ∧ r.bin.length = 3) ∧ ∃ s r, State.accepted s = some r ∧ r.bin.length = 5 :=
  ⟨⟨busy 2 [] [1, 2, 3, 4], _, rfl, rfl⟩, ⟨busy 2 [] [1, 2, 3], _, rfl, rfl⟩, ⟨busy 2 [] [1, 2, 3, 4, 5], _, rfl, rfl⟩⟩
theorem witness_B2sGivesSixteenWords : (∃ s r, ∃ b : Block, State.accepted s = some r ∧ r.bin = b.toList) ∧
    (∃ s r, State.accepted s = some r ∧ r.bin.length = 63) ∧ ∃ s r, State.accepted s = some r ∧ r.bin.length = 65 :=
  ⟨⟨busy 3 [] (Vector.replicate 64 7).toList, _, _, rfl, rfl⟩, ⟨busy 3 [] (List.replicate 63 7), _, rfl, by simp⟩,
   ⟨busy 3 [] (List.replicate 65 7), _, rfl, by simp⟩⟩
/-- Sixteen Word lanes, and one lane to either side: the witnesses of S2B, PERMF, PERMI, SPLIT and HDRCHK. -/
theorem witness_sixteen_lanes (cmd : Word) : (∃ s r, ∃ v : Words16, State.accepted s = some r ∧ r.win = v.toList) ∧
    (∃ s r, State.accepted s = some r ∧ r.win.length = 15) ∧ ∃ s r, State.accepted s = some r ∧ r.win.length = 17 :=
  ⟨⟨busy cmd (Vector.replicate 16 7).toList [], _, _, rfl, rfl⟩, ⟨busy cmd (List.replicate 15 7) [], _, rfl, by simp⟩,
   ⟨busy cmd (List.replicate 17 7) [], _, rfl, by simp⟩⟩
theorem witness_S2bGivesSixtyFourBytes : ∃ s r, State.accepted s = some r ∧ r.win.length = 16 :=
  ⟨busy 4 stateA [], _, rfl, rfl⟩
theorem witness_QrfGivesTheQuarterRound : (∃ s r, State.accepted s = some r ∧ r.win = [1, 2, 3, 4]) ∧
    (∃ s r, State.accepted s = some r ∧ r.win.length = 3) ∧ ∃ s r, State.accepted s = some r ∧ r.win.length = 5 :=
  ⟨⟨busy 5 [1, 2, 3, 4] [], _, rfl, rfl⟩, ⟨busy 5 [1, 2, 3] [], _, rfl, rfl⟩, ⟨busy 5 [1, 2, 3, 4, 5] [], _, rfl, rfl⟩⟩
theorem witness_QriGivesTheInverseQuarterRound : (∃ s r, State.accepted s = some r ∧ r.win = [1, 2, 3, 4]) ∧
    (∃ s r, State.accepted s = some r ∧ r.win.length = 3) ∧ ∃ s r, State.accepted s = some r ∧ r.win.length = 5 :=
  ⟨⟨busy 6 [1, 2, 3, 4] [], _, rfl, rfl⟩, ⟨busy 6 [1, 2, 3] [], _, rfl, rfl⟩, ⟨busy 6 [1, 2, 3, 4, 5] [], _, rfl, rfl⟩⟩
theorem witness_PermfGivesTenDoubleRounds : ∃ s r, ∃ v : Words16, State.accepted s = some r ∧ r.win = v.toList :=
  (witness_sixteen_lanes 7).1
theorem witness_PermiGivesTenReverseDoubleRounds : ∃ s r, ∃ v : Words16, State.accepted s = some r ∧ r.win = v.toList :=
  (witness_sixteen_lanes 8).1
theorem witness_BuildGivesHeaderAndLanes : (∃ s r, State.accepted s = some r ∧ r.win.length = 12 ∧ Claims.LegalShape 2 2) ∧
    (∃ s r, State.accepted s = some r ∧ r.win.length = 11 ∧ Claims.LegalShape 1 3) ∧
    ∃ s r, State.accepted s = some r ∧ r.win.length = 13 ∧ ¬ Claims.LegalShape 3 1 :=
  ⟨⟨busy 0x129 (stateA.drop 4) [], _, rfl, rfl, .inr ⟨rfl, rfl⟩⟩,
   ⟨busy 0x199 (stateA.drop 5) [], _, rfl, rfl, .inl ⟨rfl, rfl⟩⟩,
   ⟨busy 0xB9 (stateA.drop 3) [], _, rfl, rfl, by simp [Claims.LegalShape]⟩⟩
theorem witness_SplitGivesWordsFourToFifteen : ∃ s r, State.accepted s = some r ∧ (stateA.take 4).length = 4 ∧
    (stateA.drop 4).length = 12 ∧ r.win = stateA.take 4 ++ stateA.drop 4 ∧ Claims.LegalShape 1 3 :=
  ⟨busy 0x19A stateA [], _, rfl, by decide, by decide, rfl, .inl ⟨rfl, rfl⟩⟩
/-- The header, and a header one bit off. -/
theorem witness_HdrchkComparesTheHeader :
    (∃ s r, State.accepted s = some r ∧ (stateA.drop 4).length = 12 ∧ r.win = Claims.header ++ stateA.drop 4) ∧
    ∃ s r, ∃ front : List Word, State.accepted s = some r ∧ front.length = 4 ∧ front ≠ Claims.header ∧
      r.win = front ++ stateA.drop 4 :=
  ⟨⟨busy 0xB stateA [], _, rfl, by decide, rfl⟩,
   ⟨busy 0xB (stateA.set 3 0x6b206575) [], _, [0x61707865, 0x3320646e, 0x79622d32, 0x6b206575], rfl, rfl, by decide, rfl⟩⟩
theorem witness_CodecRoundTripsAreExact : (∃ s r, State.accepted s = some r ∧ r.win = [7]) ∧
    (∃ s r, State.accepted s = some r ∧ r.win.length = 16) ∧ ∃ s r, State.accepted s = some r ∧ r.bin.length = 64 :=
  ⟨⟨busy 1 [7] [], _, rfl, rfl⟩, ⟨busy 4 stateA [], _, rfl, rfl⟩, ⟨busy 3 [] (List.replicate 64 7), _, rfl, by simp⟩⟩
theorem witness_QuarterRoundsUndoEachOther : ∃ s r, State.accepted s = some r ∧ r.win = [1, 2, 3, 4] :=
  ⟨busy 5 [1, 2, 3, 4] [], _, rfl, rfl⟩
theorem witness_PermutationsUndoEachOther : ∃ s r, State.accepted s = some r ∧ r.win = stateA ∧ stateA.length = 16 :=
  ⟨busy 7 stateA [], _, rfl, rfl, rfl⟩
/-- R166's second clause asks for a State whose HDRCHK is OK. -/
theorem witness_BuildAndSplitUndoEachOther : Claims.LegalShape 2 2 ∧ (stateA.drop 4).length = 12 ∧
    ∃ s r, State.accepted s = some r ∧ r.win = stateA ∧
      exec .hdrchk s = .next (s.answered { status := .ok, wout := [], bout := [] }) :=
  ⟨.inr ⟨rfl, rfl⟩, by decide, busy 0xB stateA [], _, rfl, rfl, rfl⟩
theorem witness_GroupsOfAStepMayRunInAnyOrder : columns.reverse.Perm columns ∧ diagonals.reverse.Perm diagonals :=
  ⟨List.reverse_perm _, List.reverse_perm _⟩
theorem witness_StatusCodesAreTheSpecs : 5 ≤ (5 : BitVec 3).toNat ∧ 5 ≤ (7 : BitVec 3).toNat ∧
    ∃ s rsp, State.resp s = some rsp := ⟨by decide, by decide, State.reset.answered Response.nothing, _, rfl⟩
/-- Two requests, one of them with an illegal command, presentable on the smallest ports. -/
theorem witness_RunAnswersEachRequestOnItsOwn : ∃ (rs : List Request) (s : State), rs.length = 2 ∧ s.accepted = none ∧
    s.port = none ∧ (∀ r ∈ rs, r.presentable s.cfg = true) ∧ ∃ t, observe rs s = .next t :=
  ⟨[⟨0x1, [7], []⟩, ⟨0x0, [], []⟩], State.resetWith ⟨17, 65⟩, rfl, rfl, rfl, by decide, _, rfl⟩
theorem witness_UnitsAreIndependent : ∃ us us₁ us₂, stepUnit 0 us = .next us₁ ∧ stepUnit 1 us = .next us₂ ∧ us₁ ≠ us₂ :=
  ⟨[busy 0x1 [7] [], busy 0x0 [] []], _, _, rfl, rfl, by decide⟩
theorem witness_KeystreamIsThePermutedStateInBytes : ∃ c : Caller, c.unit.Inv ∧ c.unit.accepted = none ∧ c.unit.port = none :=
  ⟨Caller.start (State.resetWith ⟨17, 65⟩), quiet_inv, rfl, rfl⟩
theorem witness_RecoverFindsKeyCounterAndNonce : ∃ (lanes : List Word) (v : Words16) (c : Caller), lanes.length = 12 ∧
    v.toList = Claims.header ++ lanes ∧ c.unit.Inv ∧ c.unit.accepted = none ∧ c.unit.port = none :=
  ⟨stateA.drop 4, ⟨stateA.toArray, rfl⟩, Caller.start (State.resetWith ⟨17, 65⟩), rfl, rfl, quiet_inv, rfl, rfl⟩
theorem witness_RecoverRejectsAnotherHeader : ∃ (v : Words16) (c : Caller), v.toList.take 4 ≠ Claims.header ∧
    c.unit.Inv ∧ c.unit.accepted = none ∧ c.unit.port = none :=
  ⟨Vector.replicate 16 0, Caller.start (State.resetWith ⟨17, 65⟩), by decide, quiet_inv, rfl, rfl⟩
/-- A response of the longest results on the ports, and a request in progress of the most lanes. -/
theorem witness_CountPortsReadTheLaneNumbers :
    (∃ s rsp, State.Inv s ∧ s.resp = some rsp ∧ rsp.bout.length = 64) ∧ ∃ s r, State.Inv s ∧ State.accepted s = some r :=
  ⟨⟨(State.resetWith ⟨17, 65⟩).answered (Response.bytes (List.replicate 64 7)), _,
    ⟨⟨by decide, by decide, by decide, by decide⟩, by simp, by simp, by simp, by simp, by
      intro rsp h
      simp only [State.answered_resp, Option.some.injEq] at h
      exact h ▸ Response.bytes_sound (by simp)⟩, rfl, by simp [Response.bytes]⟩,
   ⟨_, _, busy_qrf_inv, rfl⟩⟩
theorem witness_ResultCountsAreTheSpecs : ∃ s r, State.accepted s = some r ∧ Claims.ShapeFine .hdrchk ∧
    Claims.CountOk r .hdrchk ∧ Claims.HeaderFine r .hdrchk ∧ Claims.ShapeFine (.split 1 3) ∧ Claims.CountOk r (.split 1 3) :=
  ⟨busy 0xB stateA [], _, rfl, trivial, rfl, rfl, .inl ⟨rfl, rfl⟩, rfl⟩

end Sys2Proof.Tests
end

/-! ## Proofs of the family 10_state: reset, the invariant, the request alone, the ports -/

section

namespace Sys2Proof.Machine

variable {s : State} {r : Request} {rsp : Response}

/-! ### Reads of a response and requests over the capacity -/

theorem readWocnt_of_resp (h : s.resp = some rsp) : readWocnt s = .ok rsp.wocnt := by
  simp [readWocnt, readResponse_of_some h, Except.map]

theorem readBocnt_of_resp (h : s.resp = some rsp) : readBocnt s = .ok rsp.bocnt := by
  simp [readBocnt, readResponse_of_some h, Except.map]

theorem readWout_of_resp (h : s.resp = some rsp) (i : Nat) : readWout i s = laneAt rsp.wout i := by
  simp [readWout, readResponse_of_some h]

theorem readBout_of_resp (h : s.resp = some rsp) (i : Nat) : readBout i s = laneAt rsp.bout i := by
  simp [readBout, readResponse_of_some h]

/-- U11: the negation of `presentable_iff`, in the terms of the rule. -/
theorem not_presentable_iff (cfg : Capacity) (r : Request) :
    ¬ r.presentable cfg = true ↔ cfg.maxW < r.win.length ∨ cfg.maxB < r.bin.length := by
  rw [presentable_iff]
  omega

theorem present_of_not_presentable (h : ¬ r.presentable s.cfg = true) : present r s = .refused .notPresentable := by
  rw [present, if_neg h]

theorem acceptPort_of_not_presentable (h : ¬ r.presentable s.cfg = true) :
    acceptPort r s = .refused .notPresentable := by
  rw [acceptPort, if_neg h]

/-- R26: whether a request fits the ports depends on its lanes alone, not on its command. -/
@[simp] theorem presentable_with_cmd (cfg : Capacity) (r : Request) (cmd : Word) :
    ({ r with cmd := cmd } : Request).presentable cfg = r.presentable cfg := rfl

/-- R6: a request with no lanes fits every port. -/
theorem presentable_without_lanes (cfg : Capacity) (cmd : Word) : (Request.mk cmd [] []).presentable cfg = true := by
  simp [presentable_iff]

/-! ### What keeps the invariant, one lemma per update of the state -/

theorem capacity_standard_legal : Capacity.standard.Legal := by
  constructor <;> decide

theorem State.resetWith_inv {cfg : Capacity} (h : cfg.Legal) : (State.resetWith cfg).Inv where
  cfg_legal := h
  port_fits := by simp
  accepted_fits := by simp
  busy_no_result := by simp
  idle_no_work := by simp
  resp_sound := by simp

theorem State.Inv.answered (h : s.Inv) (hrsp : rsp.Sound) : (s.answered rsp).Inv where
  cfg_legal := h.cfg_legal
  port_fits := h.port_fits
  accepted_fits := by simp
  busy_no_result := by simp
  idle_no_work := by simp
  resp_sound := by simpa using hrsp

theorem State.Inv.accept (h : s.Inv) (hr : r.presentable s.cfg = true) : (s.accept r).Inv where
  cfg_legal := h.cfg_legal
  port_fits := by simp
  accepted_fits := by simpa using hr
  busy_no_result := by simp
  idle_no_work := by simp
  resp_sound := by simp

theorem State.Inv.assertReset (h : s.Inv) : s.assertReset.Inv where
  cfg_legal := h.cfg_legal
  port_fits := h.port_fits
  accepted_fits := by simp
  busy_no_result := by simp
  idle_no_work := by simp
  resp_sound := by simp

/-- R26: a request that fits may be presented at any time. -/
theorem State.Inv.with_port (h : s.Inv) (hr : r.presentable s.cfg = true) : ({ s with port := some r } : State).Inv where
  cfg_legal := h.cfg_legal
  port_fits := by simpa using hr
  accepted_fits := h.accepted_fits
  busy_no_result := h.busy_no_result
  idle_no_work := h.idle_no_work
  resp_sound := h.resp_sound

/-- A busy unit may be given any other request that fits in place of the one in progress. -/
theorem State.Inv.with_accepted (h : s.Inv) (hs : s.accepted ≠ none) (hr : r.presentable s.cfg = true) :
    ({ s with accepted := some r } : State).Inv where
  cfg_legal := h.cfg_legal
  port_fits := h.port_fits
  accepted_fits := by simpa using hr
  busy_no_result := fun _ => h.busy_no_result hs
  idle_no_work := by simp
  resp_sound := h.resp_sound

theorem State.Inv.present {s' : State} (h : s.Inv) (hp : present r s = .next s') : s'.Inv := by
  obtain ⟨hr, rfl⟩ := (present_next_iff r s s').1 hp
  exact h.with_port hr

/-! ### The loading of a command (log entry 9), by where its operands come from -/

theorem loadCommand_of_accepted (hs : s.accepted = some r) (cmd : Word) :
    s.loadCommand cmd = { s with accepted := some { r with cmd := cmd } } := by
  simp [State.loadCommand, hs]

theorem loadCommand_of_port (hs : s.accepted = none) (hp : s.port = some r) (cmd : Word) :
    s.loadCommand cmd = s.accept { r with cmd := cmd } := by
  simp [State.loadCommand, hs, hp]

theorem loadCommand_of_quiet (hs : s.accepted = none) (hp : s.port = none) (cmd : Word) :
    s.loadCommand cmd = s.accept ⟨cmd, [], []⟩ := by
  simp [State.loadCommand, hs, hp]

theorem State.Inv.loadCommand (h : s.Inv) (cmd : Word) : (s.loadCommand cmd).Inv := by
  cases hs : s.accepted with
  | some r =>
    rw [loadCommand_of_accepted hs]
    exact h.with_accepted (by simp [hs]) (by simpa using h.accepted_fits r hs)
  | none =>
    cases hp : s.port with
    | some r =>
      rw [loadCommand_of_port hs hp]
      exact h.accept (by simpa using h.port_fits r hp)
    | none =>
      rw [loadCommand_of_quiet hs hp]
      exact h.accept (presentable_without_lanes s.cfg cmd)

/-! ### The response is a function of the request (R25) -/

/-- The meaning `m` gives every unit that has accepted `r` one and the same response and changes nothing else. -/
def AnswersAlike (r : Request) (m : State → Result) : Prop :=
  ∃ rsp, ∀ s : State, s.accepted = some r → m s = .next (s.answered rsp)

theorem answersAlike_respond (r : Request) (rsp : Response) : AnswersAlike r (respond rsp) :=
  ⟨rsp, fun _ _ => rfl⟩

theorem answersAlike_raise (r : Request) (e : Status) : AnswersAlike r (raise e) :=
  ⟨Response.error e, fun _ _ => rfl⟩

theorem answersAlike_deliverQuad (r : Request) (f : Quad → Quad) (q : Quad) :
    AnswersAlike r fun s => deliverQuad ((s.loadQuad q).mapQuad f) :=
  ⟨_, fun s _ => deliverQuad_mapQuad_loadQuad f q s⟩

theorem answersAlike_deliverArray (r : Request) (f : Words16 → Words16) (v : Words16) :
    AnswersAlike r fun s => deliverArray ((s.loadArray v).mapArray f) :=
  ⟨_, fun s _ => deliverArray_mapArray_loadArray f v s⟩

/-- The choice between two meanings by a test that does not read the state. -/
theorem AnswersAlike.ite {c : Prop} [Decidable c] {m₁ m₂ : State → Result} (h₁ : AnswersAlike r m₁)
    (h₂ : AnswersAlike r m₂) : AnswersAlike r fun s => if c then m₁ s else m₂ s := by
  by_cases hc : c
  · simpa only [if_pos hc] using h₁
  · simpa only [if_neg hc] using h₂

theorem AnswersAlike.withRequest {k : State → Request → Result} (hk : AnswersAlike r fun s => k s r) :
    AnswersAlike r fun s => withRequest s (k s) := by
  obtain ⟨rsp, hrsp⟩ := hk
  exact ⟨rsp, fun s hs => (withRequest_of_accepted hs (k s)).trans (hrsp s hs)⟩

/-- A counted read of the Word port sees the lanes of the request and nothing else. -/
theorem AnswersAlike.withWords {n : Nat} {k : State → Vector Word n → Result}
    (hk : ∀ v, AnswersAlike r fun s => k s v) : AnswersAlike r fun s => withWords n s (k s) := by
  by_cases hn : r.win.length = n
  · obtain ⟨v, hv⟩ := exists_vector_of_length hn
    obtain ⟨rsp, hrsp⟩ := hk v
    exact ⟨rsp, fun s hs => (withWords_of_toList hs hv (k s)).trans (hrsp s hs)⟩
  · exact ⟨_, fun s hs => withWords_of_length_ne hs hn (k s)⟩

/-- A counted read of the byte port sees the lanes of the request and nothing else. -/
theorem AnswersAlike.withBytes {n : Nat} {k : State → Vector Byte n → Result}
    (hk : ∀ v, AnswersAlike r fun s => k s v) : AnswersAlike r fun s => withBytes n s (k s) := by
  by_cases hn : r.bin.length = n
  · obtain ⟨v, hv⟩ := exists_vector_of_length hn
    obtain ⟨rsp, hrsp⟩ := hk v
    exact ⟨rsp, fun s hs => (withBytes_of_toList hs hv (k s)).trans (hrsp s hs)⟩
  · exact ⟨_, fun s hs => withBytes_of_length_ne hs hn (k s)⟩

/-- Every instruction's response is a function of the request. -/
theorem exec_answersAlike (r : Request) (i : Instr) : AnswersAlike r (exec i) := by
  cases i with
  | w2b => exact .withWords fun _ => answersAlike_respond r _
  | b2w => exact .withBytes fun _ => answersAlike_respond r _
  | b2s => exact .withBytes fun _ => answersAlike_respond r _
  | s2b => exact .withWords fun _ => answersAlike_respond r _
  | qrf => exact .withWords fun _ => answersAlike_deliverQuad r _ _
  | qri => exact .withWords fun _ => answersAlike_deliverQuad r _ _
  | permf => exact .withWords fun _ => answersAlike_deliverArray r _ _
  | permi => exact .withWords fun _ => answersAlike_deliverArray r _ _
  | build c n =>
    exact .withRequest (.ite (.withWords fun _ => answersAlike_respond r _) (answersAlike_raise r _))
  | split c n =>
    exact .withRequest (.ite (.withWords fun _ => answersAlike_respond r _) (answersAlike_raise r _))
  | hdrchk => exact .withWords fun _ => .ite (answersAlike_respond r _) (answersAlike_raise r _)

/-- R25: the response a step delivers is a function of the request in progress. -/
theorem step_answersAlike (r : Request) : AnswersAlike r step := by
  cases hd : decode r.cmd with
  | ok i =>
    obtain ⟨rsp, hrsp⟩ := exec_answersAlike r i
    exact ⟨rsp, fun s hs => (step_of_decoded hs hd).trans (hrsp s hs)⟩
  | error e => exact ⟨_, fun s hs => step_of_illegal hs hd⟩

end Sys2Proof.Machine

open Sys2Proof.Machine

/-! ### The obligations -/

/-- Settles O3: `step_cases` names the three steps with a next state (answer, accept, wait), each keeps the invariant. -/
theorem stepKeepsInvariant : Obligations.StepKeepsInvariant := by
  intro s s' hinv hstep
  rcases step_cases s with ⟨_, rsp, hsound, hanswer⟩ | ⟨r, _, _, hfits, haccept⟩ | ⟨r, _, _, _, hrefuse⟩ | ⟨_, _, hwait⟩
  · cases hanswer.symm.trans hstep
    exact hinv.answered hsound
  · cases haccept.symm.trans hstep
    exact hinv.accept hfits
  · cases hrefuse.symm.trans hstep
  · cases hwait.symm.trans hstep
    exact hinv

/-- Settles O4: reset, a presented request and the loading of a command, each by its own invariant lemma. -/
theorem callerAndResetKeepInvariant : Obligations.CallerAndResetKeepInvariant :=
  fun _ h => ⟨h.assertReset, fun _ _ hp => h.present hp, fun _ _ => h.loadCommand _⟩

/-- Settles O25: both units deliver the one response that the request decides. -/
theorem responseDependsOnRequestAlone : Obligations.ResponseDependsOnRequestAlone := by
  intro s₁ s₂ r h₁ h₂
  obtain ⟨rsp, hrsp⟩ := step_answersAlike r
  exact ⟨rsp, hrsp s₁ h₁, hrsp s₂ h₂⟩

/-- Settles O27: the two states hold the same request, so they get the same response, and answering clears the hidden
fields, the only ones in which they differ. -/
theorem hiddenStateStartsFreshAndVanishes : Obligations.HiddenStateStartsFreshAndVanishes := by
  intro s x q hs
  obtain ⟨r, hr⟩ := Option.ne_none_iff_exists'.1 hs
  obtain ⟨rsp, hrsp⟩ := step_answersAlike r
  exact ⟨s.answered rsp, hrsp { s with x := x, quad := q } hr, hrsp s hr, s.answered_x rsp, s.answered_quad rsp⟩

/-- Settles O1: with no response on the ports every read faults. -/
theorem resetLeavesIdleUnitWithoutResults : Obligations.ResetLeavesIdleUnitWithoutResults :=
  ⟨rfl, rfl, rfl, rfl, reads_fault_of_none (State.resetWith_resp _)⟩

/-- Settles O2: the default capacities are legal ones. -/
theorem resetMeetsInvariant : Obligations.ResetMeetsInvariant :=
  ⟨State.resetWith_inv capacity_standard_legal, fun _ => State.resetWith_inv⟩

/-- Settles O16: both lane reads are `laneAt` of the response's lanes. -/
theorem lanesBeyondTheCountHoldNoValue : Obligations.LanesBeyondTheCountHoldNoValue := by
  intro s rsp h i
  rw [readWout_of_resp h, readBout_of_resp h]
  exact ⟨fun _ => laneAt_of_getElem?, laneAt_of_length_le, fun _ => laneAt_of_getElem?, laneAt_of_length_le⟩

/-- Settles O17: such a request is not presentable, which both presenting and accepting look at first. -/
theorem oversizedRequestsAreTurnedAway : Obligations.OversizedRequestsAreTurnedAway := by
  intro s r hover
  have hr := (not_presentable_iff s.cfg r).2 hover
  refine ⟨present_of_not_presentable hr, fun hs hp => ?_⟩
  rw [step_of_port hs hp]
  exact acceptPort_of_not_presentable hr

/-- Settles O48, by evaluation of the constant and of its sixteen bytes. -/
theorem headerBytesAreTheSpecs : Obligations.HeaderBytesAreTheSpecs :=
  ⟨rfl, by decide⟩

/-- Settles O54: the invariant bounds all four lane numbers below 256, so that no 8-bit count is cut. -/
theorem countPortsReadTheLaneNumbers : Obligations.CountPortsReadTheLaneNumbers := by
  intro s hinv
  constructor
  · intro rsp h
    obtain ⟨hw, hb⟩ := (hinv.resp_sound rsp h).counts_exact
    exact ⟨_, _, readWocnt_of_resp h, readBocnt_of_resp h, hw, hb⟩
  · rintro r (hp | ha)
    · exact counts_exact hinv.cfg_legal (hinv.port_fits r hp)
    · exact counts_exact hinv.cfg_legal (hinv.accepted_fits r ha)

end

/-! ## Proofs of the family 20_memory: the frame of the operations and the order of a run -/

section

namespace Sys2Proof.Machine

variable {s t : State} {r : Request} {rsp : Response}

/-- An instruction has a next state only while a request is in progress, and then that state is an answer. -/
theorem exec_next_answered {i : Instr} (h : exec i s = .next t) : ∃ rsp, t = s.answered rsp := by
  by_cases hs : s.accepted = none
  · cases (exec_of_idle hs i).symm.trans h
  · obtain ⟨rsp, -, hanswer⟩ := exec_delivers hs i
    cases hanswer.symm.trans h
    exact ⟨rsp, rfl⟩

/-! ### Running a unit until it has nothing to do -/

@[simp] theorem andThen_next {α β : Type} (a : α) (k : α → Host.Outcome β Fault Refusal) :
    andThen (.next a) k = k a := rfl

theorem State.quiet_iff : s.quiet = true ↔ s.accepted = none ∧ s.port = none := by
  simp [State.quiet]

/-- A unit with nothing to do is left as it is, whatever the number of steps. -/
theorem settle_of_quiet (h : s.quiet = true) (n : Nat) : settle n s = .next s := by
  cases n with
  | zero => rfl
  | succ n => rw [settle, if_pos h]

/-- A unit with something to do takes one step of the allowed number. -/
theorem settle_succ_of_step (h : ¬ s.quiet = true) (hstep : step s = .next t) (n : Nat) :
    settle (n + 1) s = settle n t := by
  rw [settle, if_neg h, hstep, andThen_next]

/-- Log entry 1: an idle unit accepts the presented request in one step and answers it in the next. -/
theorem settle_of_presented (hs : s.accepted = none) (hp : s.port = some r) (hfits : r.presentable s.cfg = true)
    (hanswer : step (s.accept r) = .next ((s.accept r).answered rsp)) (n : Nat) :
    settle (n + 2) s = .next ((s.accept r).answered rsp) := by
  have haccept : step s = .next (s.accept r) := by
    rw [step_of_port hs hp]
    exact (acceptPort_next_iff r s _).2 ⟨hfits, rfl⟩
  calc settle (n + 2) s
      = settle (n + 1) (s.accept r) := settle_succ_of_step (by simp [State.quiet_iff, hp]) haccept _
    _ = settle n ((s.accept r).answered rsp) := settle_succ_of_step (by simp [State.quiet_iff]) hanswer _
    _ = .next ((s.accept r).answered rsp) := settle_of_quiet (by simp [State.quiet_iff]) n

/-! ### One request, and a run of them -/

/-- R45, R25: every idle unit that the request `r` fits gives the caller one and the same response to it, and is left
with that answer to the accepted `r`. -/
theorem transact_of_idle (r : Request) : ∃ rsp, ∀ s : State, s.accepted = none → r.presentable s.cfg = true →
    transact r s = .next ((s.accept r).answered rsp, rsp) := by
  obtain ⟨rsp, hrsp⟩ := step_answersAlike r
  refine ⟨rsp, fun s hs hfits => ?_⟩
  have hsettle := settle_of_presented (s := { s with port := some r }) hs rfl hfits (hrsp _ (State.accept_accepted _ r)) 1
  rw [transact, (present_next_iff r s _).2 ⟨hfits, rfl⟩, andThen_next, hsettle, andThen_next,
    readResponse_of_some (State.answered_resp _ rsp)]
  rfl

/-- `rsp` is the response to `r` alone, from a unit right after reset with the capacities `cfg`. -/
def AnsweredAfterReset (cfg : Capacity) (r : Request) (rsp : Response) : Prop :=
  ∃ u, transact r (State.resetWith cfg) = .next (u, rsp)

/-- R46, R249: a run of requests that fit leaves an idle unit with an empty request port if it began with one, and pairs
every request with its response after reset. -/
theorem observe_of_quiet (rs : List Request) (hs : s.accepted = none) (hp : s.port = none)
    (hfits : ∀ r ∈ rs, r.presentable s.cfg = true) :
    ∃ t rsps, observe rs s = .next (t, rsps) ∧ t.accepted = none ∧ t.port = none ∧
      List.Forall₂ (AnsweredAfterReset s.cfg) rs rsps := by
  induction rs generalizing s with
  | nil => exact ⟨s, [], rfl, hs, hp, .nil⟩
  | cons r rs ih =>
    have hr := hfits r List.mem_cons_self
    obtain ⟨rsp, hrsp⟩ := transact_of_idle r
    obtain ⟨t, rsps, hrun, hidle, hport, hall⟩ := ih (s := (s.accept r).answered rsp) rfl rfl
      fun r' hr' => hfits r' (List.mem_cons_of_mem r hr')
    exact ⟨t, rsp :: rsps, by simp [observe, hrsp s hs hr, hrun], hidle, hport,
      .cons ⟨_, hrsp (State.resetWith s.cfg) rfl hr⟩ hall⟩

end Sys2Proof.Machine

open Sys2Proof.Machine

/-! ### The obligations -/

/-- Settles O24: a next state of `exec` is an answer to the request in progress, whose fields are known. -/
theorem operationsChangeOnlyTheResponse : Obligations.OperationsChangeOnlyTheResponse := by
  intro i s t h
  obtain ⟨rsp, rfl⟩ := exec_next_answered h
  exact ⟨rfl, rfl, rfl, rfl, rfl, rsp, rfl⟩

/-- Settles O49: `observe_of_quiet` pairs the requests with their responses, and paired lists have one length and agree
at every index. -/
theorem runAnswersEachRequestOnItsOwn : Obligations.RunAnswersEachRequestOnItsOwn := by
  intro rs s hs hp hfits
  obtain ⟨t, rsps, hrun, hidle, hport, hall⟩ := observe_of_quiet rs hs hp hfits
  refine ⟨t, rsps, hrun, hidle, hport, hall.length_eq.symm, fun k r rsp hr hrsp => ?_⟩
  obtain ⟨hk, rfl⟩ := List.getElem?_eq_some_iff.1 hr
  obtain ⟨hk', rfl⟩ := List.getElem?_eq_some_iff.1 hrsp
  exact hall.get hk hk'

end

/-! ## Proofs of the family 30_encoding, first part: commands -/

section

namespace Sys2Proof

open Claims

/-! ### The fields of a command word, the decoder and the encoder (R61-R65, R68) -/

/-- R62: every operation has an OP value from 0x1 to 0xB. -/
theorem opCode_bounds (i : Instr) : 1 ≤ (opCode i).toNat ∧ (opCode i).toNat ≤ 0xB := by
  cases i <;> simp [opCode]

/-- R63: only BUILD and SPLIT, the operations with OP 0x9 and 0xA, have shape fields. -/
theorem shape_eq_zero_of_opCode {i : Instr} (h : ¬ ((opCode i).toNat = 0x9 ∨ (opCode i).toNat = 0xA)) :
    shapeCw i = 0 ∧ shapeNw i = 0 := by
  cases i <;> simp_all [opCode, shapeCw, shapeNw]

theorem wf_iff_shape_lt (i : Instr) : i.wf = true ↔ shapeCw i < 8 ∧ shapeNw i < 8 := by
  cases i <;> simp [shapeCw, shapeNw, Instr.wf]

/-- R62, R63: the statement's fields of an instruction are the model's. -/
theorem fieldsOf_iff (cmd : Word) (i : Instr) :
    FieldsOf cmd i ↔ op cmd = (opCode i).toNat ∧ cw cmd = shapeCw i ∧ nw cmd = shapeNw i := by
  cases i <;> rfl

/-- R68: `opOf` names the operation with this OP value, and looks at the shape fields of BUILD and SPLIT alone. -/
theorem opOf_eq_ok_iff (k c n : Nat) (i : Instr) :
    opOf k c n = .ok i ↔ k = (opCode i).toNat ∧ (k = 0x9 ∨ k = 0xA → shapeCw i = c ∧ shapeNw i = n) := by
  constructor
  · intro h
    unfold opOf at h
    split at h <;> cases h <;> simp [opCode, shapeCw, shapeNw]
  · rintro ⟨rfl, h⟩
    cases i <;> simp_all [opCode, shapeCw, shapeNw, opOf]

/-- R61-R65, R68: a word that fails a test of the decoder has the fields of no operation, and one that passes them all
is named by its OP value. -/
theorem decode_eq_ok_iff (cmd : Word) (i : Instr) : decode cmd = .ok i ↔ rsvd cmd = 0 ∧ FieldsOf cmd i := by
  have hcode := opCode_bounds i
  have hplain := @shape_eq_zero_of_opCode i
  have hop : fieldOp cmd = op cmd := fieldOp_eq cmd
  have hcw : fieldCw cmd = cw cmd := fieldCw_eq cmd
  have hnw : fieldNw cmd = nw cmd := fieldNw_eq cmd
  have hrsvd : fieldRsvd cmd = rsvd cmd := fieldRsvd_eq cmd
  rw [fieldsOf_iff, decode, hop, hcw, hnw, hrsvd]
  split_ifs with hreserved hillegal hshaped hfields
  · exact iff_of_false nofun fun h => hreserved h.1
  · exact iff_of_false nofun (by omega)
  · rw [opOf_eq_ok_iff]; omega
  · exact iff_of_false nofun (by omega)
  · rw [opOf_eq_ok_iff]; omega

/-- R61: the four fields are the whole command word. -/
theorem toNat_eq_fields (cmd : Word) : cmd.toNat = op cmd + 16 * cw cmd + 128 * nw cmd + 1024 * rsvd cmd := by
  unfold op cw nw rsvd
  omega

/-- R61, R69: `Laws.EncodeFields`, for every instruction at once. -/
theorem encode_toNat {i : Instr} (h : i.wf = true) :
    (encode i).toNat = (opCode i).toNat + 16 * shapeCw i + 128 * shapeNw i := by
  obtain ⟨hc, hn⟩ := shape_lt_of_wf h
  exact Laws.EncodeFields.fields_toNat (opCode i) (shapeCw i) (shapeNw i) hc hn

/-- R64: the words that decode to an instruction are its command word, if it has one. -/
theorem decode_eq_ok_iff_encode (cmd : Word) (i : Instr) : decode cmd = .ok i ↔ i.wf = true ∧ encode i = cmd := by
  have hcode := opCode_bounds i
  rw [decode_eq_ok_iff, fieldsOf_iff]
  constructor
  · rintro ⟨hr, ho, hc, hn⟩
    have hwf : i.wf = true := by
      rw [wf_iff_shape_lt, ← hc, ← hn]
      unfold cw nw
      omega
    refine ⟨hwf, BitVec.eq_of_toNat_eq ?_⟩
    rw [encode_toNat hwf, toNat_eq_fields cmd]
    omega
  · rintro ⟨hwf, rfl⟩
    have hshape := shape_lt_of_wf hwf
    unfold op cw nw rsvd
    rw [encode_toNat hwf]
    omega

/-- R64: the command word of a well-formed instruction is read back. -/
theorem decode_encode {i : Instr} (h : i.wf = true) : decode (encode i) = .ok i :=
  (decode_eq_ok_iff_encode _ i).2 ⟨h, rfl⟩

/-- R61, R69: the command word by shifts, `OP | CW << 4 | NW << 7`. -/
theorem encode_eq_ofNat {i : Instr} (h : i.wf = true) :
    encode i = BitVec.ofNat 32 ((opCode i).toNat ||| shapeCw i <<< 4 ||| shapeNw i <<< 7) := by
  obtain ⟨hc, hn⟩ := shape_lt_of_wf h
  have hcode := opCode_bounds i
  have hor : (opCode i).toNat ||| shapeCw i <<< 4 ||| shapeNw i <<< 7 = (encode i).toNat := by
    rw [encode_toNat h, Nat.or_comm (opCode i).toNat, ← Nat.shiftLeft_add_eq_or_of_lt (by omega), Nat.or_comm,
      ← Nat.shiftLeft_add_eq_or_of_lt (by omega)]
    omega
  rw [hor, BitVec.ofNat_toNat, BitVec.setWidth_eq]

/-! ### All the instructions with a command word (R65) -/

/-- Every pair of values of the two shape fields. -/
def allShapes : List (Nat × Nat) := List.range 8 ×ˢ List.range 8

/-- The nine operations without a shape, then BUILD and SPLIT with every pair of shape fields. -/
def wfInstrs : List Instr :=
  [.w2b, .b2w, .b2s, .s2b, .qrf, .qri, .permf, .permi, .hdrchk] ++
    (allShapes.map (fun p => .build p.1 p.2) ++ allShapes.map fun p => .split p.1 p.2)

theorem mem_wfInstrs (i : Instr) : i ∈ wfInstrs ↔ i.wf = true := by
  cases i <;> simp [wfInstrs, allShapes, Instr.wf]

theorem nodup_wfInstrs : wfInstrs.Nodup := by
  have hpairs : allShapes.Nodup := List.nodup_range.product List.nodup_range
  have hbuild : (allShapes.map fun p => Instr.build p.1 p.2).Nodup :=
    hpairs.map fun p q h => by simpa [Prod.ext_iff] using h
  have hsplit : (allShapes.map fun p => Instr.split p.1 p.2).Nodup :=
    hpairs.map fun p q h => by simpa [Prod.ext_iff] using h
  refine List.Nodup.append (by decide) (hbuild.append hsplit fun i hb hs => ?_) (by simp [List.disjoint_left])
  obtain ⟨p, -, rfl⟩ := List.mem_map.1 hb
  obtain ⟨q, -, h⟩ := List.mem_map.1 hs
  cases h

/-- R64: no two well-formed instructions share a command word. -/
theorem encode_injective {i j : Instr} (hi : i.wf = true) (hj : j.wf = true) (h : encode i = encode j) : i = j := by
  have hij : (.ok i : Except Illegal Instr) = .ok j := by rw [← decode_encode hi, h, decode_encode hj]
  exact Except.ok.inj hij

namespace Machine

/-! ### The assembler's command words (R69) -/

/-- R62: the operation of a line is the one its mnemonic names. -/
theorem opCode_of_instrOf {o : Op} {shape : Option (Nat × Nat)} {i : Instr} (h : instrOf o shape = .ok i) :
    (opCode i).toNat = opValue o := by
  cases o <;> cases shape <;> cases h <;> rfl

theorem assembleCommand_of_wf {o : Op} {shape : Option (Nat × Nat)} {i : Instr} (h : instrOf o shape = .ok i)
    (hwf : i.wf = true) : assembleCommand o shape = .ok (encode i) := by
  simp [assembleCommand, h, hwf]

/-- Log entry 20. -/
theorem assembleCommand_of_not_wf {o : Op} {shape : Option (Nat × Nat)} {i : Instr} (h : instrOf o shape = .ok i)
    (hwf : ¬ i.wf = true) : assembleCommand o shape = .error .shapeTooWide := by
  simp [assembleCommand, h, hwf]

/-- R61, R69: a line with an operation in the fields of the rule assembles to their sum. -/
theorem assembleCommand_eq_fields {o : Op} {shape : Option (Nat × Nat)} {i : Instr} (h : instrOf o shape = .ok i)
    (hwf : i.wf = true) :
    assembleCommand o shape = .ok (BitVec.ofNat 32 (opValue o ||| shapeCw i <<< 4 ||| shapeNw i <<< 7)) := by
  rw [assembleCommand_of_wf h hwf, encode_eq_ofNat hwf, opCode_of_instrOf h]

/-- D13: BUILD and SPLIT take their shape from the line, (2, 2) by default, and it fills the two shape fields. -/
theorem instrOf_shaped {o : Op} (ho : o = .build ∨ o = .split) :
    instrOf o none = instrOf o (some (2, 2)) ∧
      ∀ c n, ∃ i, instrOf o (some (c, n)) = .ok i ∧ shapeCw i = c ∧ shapeNw i = n := by
  rcases ho with rfl | rfl <;> exact ⟨rfl, fun _ _ => ⟨_, rfl, rfl, rfl⟩⟩

/-- R69: a mnemonic other than BUILD and SPLIT takes no shape, and its shape fields are 0. -/
theorem instrOf_plain {o : Op} (ho : o ≠ .build ∧ o ≠ .split) :
    (∀ shape, instrOf o (some shape) = .error .shapeNotAllowed) ∧
      ∃ i, instrOf o none = .ok i ∧ shapeCw i = 0 ∧ shapeNw i = 0 := by
  cases o
  case build => exact absurd rfl ho.1
  case split => exact absurd rfl ho.2
  all_goals exact ⟨fun _ => rfl, _, rfl, rfl, rfl⟩

end Machine

end Sys2Proof

open Sys2Proof Sys2Proof.Machine Sys2Proof.Claims

/-! ### The obligations about commands -/

/-- Settles O8: `decode_eq_ok_iff` is the statement. -/
theorem decodeReadsTheFields : Obligations.DecodeReadsTheFields :=
  decode_eq_ok_iff

/-- Settles O10: the list is the command words of the well-formed instructions, which are those that decode. -/
theorem exactlyOneHundredThirtySevenCommands : Obligations.ExactlyOneHundredThirtySevenCommands := by
  refine ⟨wfInstrs.map encode, nodup_wfInstrs.map_on fun i hi j hj => ?_, rfl, fun cmd => ?_⟩
  · exact encode_injective ((mem_wfInstrs i).1 hi) ((mem_wfInstrs j).1 hj)
  · simp only [List.mem_map, mem_wfInstrs, decode_eq_ok_iff_encode]

/-- Settles O12: the operation of a line has the mnemonic's OP value, and its shape fields are the line's digits,
(2, 2) or 0. -/
theorem assembledCommandIsFieldSum : Obligations.AssembledCommandIsFieldSum := by
  intro o
  constructor
  · intro ho
    obtain ⟨hdefault, hfields⟩ := instrOf_shaped ho
    refine ⟨fun c n hc hn => ?_, fun c n hwide => ?_, by rw [assembleCommand, hdefault, assembleCommand]⟩
    all_goals obtain ⟨i, hi, rfl, rfl⟩ := hfields c n
    · exact assembleCommand_eq_fields hi ((wf_iff_shape_lt i).2 ⟨hc, hn⟩)
    · exact assembleCommand_of_not_wf hi (by rw [wf_iff_shape_lt]; omega)
  · intro ho
    obtain ⟨hshape, i, hi, hc, hn⟩ := instrOf_plain ho
    refine ⟨fun shape => by simp [assembleCommand, hshape], ?_⟩
    rw [assembleCommand_eq_fields hi ((wf_iff_shape_lt i).2 (by omega)), hc, hn]
    simp

/-- Settles O11, by decoding the eight words. -/
theorem specCommandWordsDecode : Obligations.SpecCommandWordsDecode := by
  unfold Obligations.SpecCommandWordsDecode
  decide

end

/-! ## Proofs of the family 30_encoding, second part: the results of the operations -/

section

namespace Sys2Proof.Machine

open Claims

variable {s : State} {r : Request}

/-! ### The parts of a response and the STATUS port -/

@[simp] theorem Response.words_status (ws : List Word) : (Response.words ws).status = .ok := rfl
@[simp] theorem Response.words_wout (ws : List Word) : (Response.words ws).wout = ws := rfl
@[simp] theorem Response.words_bout (ws : List Word) : (Response.words ws).bout = [] := rfl
@[simp] theorem Response.bytes_status (bs : List Byte) : (Response.bytes bs).status = .ok := rfl
@[simp] theorem Response.bytes_wout (bs : List Byte) : (Response.bytes bs).wout = [] := rfl
@[simp] theorem Response.bytes_bout (bs : List Byte) : (Response.bytes bs).bout = bs := rfl

theorem readStatus_of_resp {rsp : Response} (h : s.resp = some rsp) : readStatus s = .ok rsp.status := by
  simp [readStatus, readResponse_of_some h, Except.map]

/-! ### What each operation answers once its checks pass (R66, R67) -/

theorem exec_w2b_of_lane {w : Word} (hs : s.accepted = some r) (hw : r.win = [w]) :
    exec .w2b s = .next (s.answered (Response.bytes (wordToBytes w).toList)) :=
  withWords_of_toList (v := #v[w]) hs hw _

theorem exec_b2w_of_lanes {b : Vector Byte 4} (hs : s.accepted = some r) (hb : r.bin = b.toList) :
    exec .b2w s = .next (s.answered (Response.words [bytesToWord b])) :=
  withBytes_of_toList hs hb _

theorem exec_b2s_of_lanes {b : Block} (hs : s.accepted = some r) (hb : r.bin = b.toList) :
    exec .b2s s = .next (s.answered (Response.words (blockToState b).toList)) :=
  withBytes_of_toList hs hb _

theorem exec_s2b_of_lanes {v : Words16} (hs : s.accepted = some r) (hv : r.win = v.toList) :
    exec .s2b s = .next (s.answered (Response.bytes (stateToBlock v).toList)) :=
  withWords_of_toList hs hv _

/-- R123, R124: the result lanes of a quadruple. -/
def quadLanes (q : Quad) : List Word := [q.a, q.b, q.c, q.d]

theorem exec_qrf_of_lanes {v : Vector Word 4} (hs : s.accepted = some r) (hv : r.win = v.toList) :
    exec .qrf s = .next (s.answered (Response.words (quadLanes (quarterRoundForward ⟨v[0], v[1], v[2], v[3]⟩)))) :=
  withWords_of_toList hs hv _

theorem exec_qri_of_lanes {v : Vector Word 4} (hs : s.accepted = some r) (hv : r.win = v.toList) :
    exec .qri s = .next (s.answered (Response.words (quadLanes (quarterRoundInverse ⟨v[0], v[1], v[2], v[3]⟩)))) :=
  withWords_of_toList hs hv _

theorem exec_permf_of_lanes {v : Words16} (hs : s.accepted = some r) (hv : r.win = v.toList) :
    exec .permf s = .next (s.answered (Response.words (forwardPermute v).toList)) :=
  withWords_of_toList hs hv _

theorem exec_permi_of_lanes {v : Words16} (hs : s.accepted = some r) (hv : r.win = v.toList) :
    exec .permi s = .next (s.answered (Response.words (inversePermute v).toList)) :=
  withWords_of_toList hs hv _

/-- R161: the two legal shapes. -/
theorem shapeOk_iff (c n : Nat) : shapeOk c n = true ↔ LegalShape c n := by
  simp only [shapeOk, LegalShape, Bool.and_eq_true, Bool.or_eq_true, decide_eq_true_eq]
  omega

/-- R162: both legal shapes ask for twelve lanes. -/
theorem exec_build_of_lanes {c n : Nat} (hs : s.accepted = some r) (hshape : LegalShape c n)
    (hlen : r.win.length = 12) :
    exec (.build c n) s = .next (s.answered (Response.words (hdr.toList ++ r.win))) := by
  have hcount : r.win.length = 8 + c + n := by unfold LegalShape at hshape; omega
  obtain ⟨v, hv⟩ := exists_vector_of_length hcount
  rw [exec, execBuild, withRequest_of_accepted hs, if_pos ((shapeOk_iff c n).2 hshape), withWords_of_toList hs hv, hv]
  rfl

theorem exec_split_of_lanes {c n : Nat} {v : Words16} (hs : s.accepted = some r) (hshape : LegalShape c n)
    (hv : r.win = v.toList) :
    exec (.split c n) s = .next (s.answered (Response.words (v.toList.drop 4))) := by
  rw [exec, execSplit, withRequest_of_accepted hs, if_pos ((shapeOk_iff c n).2 hshape), withWords_of_toList hs hv]
  rfl

theorem take_four (v : Words16) : v.toList.take 4 = [v[0], v[1], v[2], v[3]] := by
  refine List.ext_getElem (by simp) fun k hk _ => ?_
  have hk4 : k < 4 := by simpa using hk
  interval_cases k <;> simp

/-- R164: the check compares the first four Words with the header the spec writes. -/
theorem headerOk_iff (v : Words16) : headerOk v = true ↔ v.toList.take 4 = header := by
  simp only [headerOk, Bool.and_eq_true, and_assoc]
  rw [decide_eq_true_iff, decide_eq_true_iff, decide_eq_true_iff, decide_eq_true_iff, take_four]
  simp [header, hdr]

theorem exec_hdrchk_of_header {v : Words16} (hs : s.accepted = some r) (hv : r.win = v.toList)
    (h : v.toList.take 4 = header) : exec .hdrchk s = .next (s.answered Response.nothing) := by
  rw [exec, execHdrchk, withWords_of_toList hs hv, if_pos ((headerOk_iff v).2 h), respond_eq]

theorem exec_hdrchk_of_not_header {v : Words16} (hs : s.accepted = some r) (hv : r.win = v.toList)
    (h : v.toList.take 4 ≠ header) : exec .hdrchk s = .next (s.answered (Response.error .recoveryFailure)) := by
  rw [exec, execHdrchk, withWords_of_toList hs hv, if_neg (mt (headerOk_iff v).1 h), raise_eq]

/-- R67: an operation whose checks pass answers OK with the counts of the rule's table. -/
theorem exec_of_checks {i : Instr} (hs : s.accepted = some r) (hshape : ShapeFine i) (hcount : CountOk r i)
    (hheader : HeaderFine r i) :
    ∃ rsp, exec i s = .next (s.answered rsp) ∧ rsp.status = .ok ∧
      rsp.wout.length = wordResults i ∧ rsp.bout.length = byteResults i := by
  cases i with
  | w2b =>
    obtain ⟨w, hw⟩ := List.length_eq_one_iff.1 hcount
    exact ⟨_, exec_w2b_of_lane hs hw, rfl, rfl, rfl⟩
  | b2w =>
    obtain ⟨b, hb⟩ := exists_vector_of_length hcount
    exact ⟨_, exec_b2w_of_lanes hs hb, rfl, rfl, rfl⟩
  | b2s =>
    obtain ⟨b, hb⟩ := exists_vector_of_length hcount
    exact ⟨_, exec_b2s_of_lanes hs hb, rfl, by simp [wordResults], rfl⟩
  | s2b =>
    obtain ⟨v, hv⟩ := exists_vector_of_length hcount
    exact ⟨_, exec_s2b_of_lanes hs hv, rfl, rfl, by simp [byteResults]⟩
  | qrf =>
    obtain ⟨v, hv⟩ := exists_vector_of_length hcount
    exact ⟨_, exec_qrf_of_lanes hs hv, rfl, rfl, rfl⟩
  | qri =>
    obtain ⟨v, hv⟩ := exists_vector_of_length hcount
    exact ⟨_, exec_qri_of_lanes hs hv, rfl, rfl, rfl⟩
  | permf =>
    obtain ⟨v, hv⟩ := exists_vector_of_length hcount
    exact ⟨_, exec_permf_of_lanes hs hv, rfl, by simp [wordResults], rfl⟩
  | permi =>
    obtain ⟨v, hv⟩ := exists_vector_of_length hcount
    exact ⟨_, exec_permi_of_lanes hs hv, rfl, by simp [wordResults], rfl⟩
  | build c n =>
    have hlen : r.win.length = 12 := hcount
    exact ⟨_, exec_build_of_lanes hs hshape hlen, rfl, by simp [wordResults, hlen], rfl⟩
  | split c n =>
    obtain ⟨v, hv⟩ := exists_vector_of_length hcount
    exact ⟨_, exec_split_of_lanes hs hshape hv, rfl, by simp [wordResults], rfl⟩
  | hdrchk =>
    obtain ⟨v, hv⟩ := exists_vector_of_length hcount
    have hok : v.toList.take 4 = header := hv ▸ hheader
    exact ⟨_, exec_hdrchk_of_header hs hv hok, rfl, rfl, rfl⟩

end Sys2Proof.Machine

open Sys2Proof Sys2Proof.Machine Sys2Proof.Claims

/-- Settles O55: `exec_of_checks` gives the lanes, and the response is sound, so that no 8-bit count is cut. -/
theorem resultCountsAreTheSpecs : Obligations.ResultCountsAreTheSpecs := by
  intro i s r hs hshape hcount hheader
  obtain ⟨rsp, hexec, hok, hwout, hbout⟩ := exec_of_checks hs hshape hcount hheader
  have hsound : rsp.Sound := by
    obtain ⟨rsp', hsound, h⟩ := exec_delivers (s := s) (by simp [hs]) i
    cases hexec.symm.trans h
    exact hsound
  obtain ⟨hwocnt, hbocnt⟩ := hsound.counts_exact
  have hresp := s.answered_resp rsp
  exact ⟨_, _, _, hexec, by rw [readStatus_of_resp hresp, hok], readWocnt_of_resp hresp, readBocnt_of_resp hresp,
    hwocnt.trans hwout, hbocnt.trans hbout⟩

end

/-! ## Proofs of the family 30_encoding, third part: the codec and the permutation on whole States -/

section

namespace Sys2Proof.Machine

open Claims

/-! ### The codec on whole States (R41, R42, R105) -/

/-- R41: the bytes of a Word put together again are the Word. -/
theorem bytesToWord_byteOf (w : Word) : bytesToWord #v[byteOf w 0, byteOf w 1, byteOf w 2, byteOf w 3] = w := by
  refine BitVec.eq_of_getLsbD_eq fun i hi => ?_
  interval_cases i <;> simp [bytesToWord, byteOf]

/-- R105: B2S undoes S2B. -/
theorem blockToState_stateToBlock (v : Words16) : blockToState (stateToBlock v) = v := by
  refine Vector.ext fun i hi => ?_
  have hdiv : ∀ j, j < 4 → (4 * i + j) / 4 = i := by omega
  simp [blockToState, stateToBlock, hdiv, bytesToWord_byteOf]

/-- R42: byte `k` of the bytes of a list of Words is byte `k mod 4` of Word `k div 4`. -/
theorem getElem?_flatMap_bytesOf (ws : List Word) (k : Nat) :
    (ws.flatMap bytesOf)[k]? = ws[k / 4]?.map fun w => byteOf w (k % 4) := by
  induction ws generalizing k with
  | nil => simp
  | cons w ws ih =>
    rcases Nat.lt_or_ge k 4 with hk | hk
    · interval_cases k <;> rfl
    · obtain ⟨j, rfl⟩ := Nat.exists_eq_add_of_le' hk
      simpa [bytesOf] using ih j

/-- R104: the Block of a State is the bytes of its Words, one Word after another. -/
theorem stateToBlock_toList (v : Words16) : (stateToBlock v).toList = v.toList.flatMap bytesOf := by
  refine List.ext_getElem? fun k => ?_
  rw [getElem?_flatMap_bytesOf]
  rcases Nat.lt_or_ge k 64 with hk | hk
  · have : k / 4 < 16 := by omega
    simp [stateToBlock, hk, this]
  · have : 16 ≤ k / 4 := by omega
    simp [hk, this]

/-! ### Rotations and quarter-rounds (R122-R125) -/

/-- R122: a right rotation undoes the left one. -/
theorem rotateRight_rotateLeft (x : Word) {n : Nat} (h : n < 32) : (x.rotateLeft n).rotateRight n = x := by
  refine BitVec.eq_of_getLsbD_eq fun i hi => ?_
  rw [BitVec.getLsbD_rotateRight, BitVec.getLsbD_rotateLeft, BitVec.getLsbD_rotateLeft, Nat.mod_eq_of_lt h]
  by_cases hlow : i < 32 - n
  · simp [hlow, show n + i < 32 by omega]
  · simp [hlow, hi, show i - (32 - n) < n by omega, show 32 - n + (i - (32 - n)) = i by omega]

/-- R123: the model's quarter-round is the statement's. -/
theorem quarterRoundForward_eq (q : Quad) : quarterRoundForward q = quarter q := by
  simp [quarterRoundForward, quarter, rotl32_eq, add32]

/-- R124: the model's inverse quarter-round is the statement's. -/
theorem quarterRoundInverse_eq (q : Quad) : quarterRoundInverse q = quarterBack q := by
  have h7 (x : Word) : rotr32 x 7 = x.rotateRight 7 := rotr32_eq x 7 (by decide)
  have h8 (x : Word) : rotr32 x 8 = x.rotateRight 8 := rotr32_eq x 8 (by decide)
  have h12 (x : Word) : rotr32 x 12 = x.rotateRight 12 := rotr32_eq x 12 (by decide)
  have h16 (x : Word) : rotr32 x 16 = x.rotateRight 16 := rotr32_eq x 16 (by decide)
  simp only [quarterRoundInverse, quarterBack, sub32, h7, h8, h12, h16]

/-- R125: each statement of QRI takes back one of QRF, the last first. -/
theorem quarterBack_quarter (q : Quad) : quarterBack (quarter q) = q := by
  simp only [quarter, quarterBack]
  simp [rotateRight_rotateLeft]

/-! ### Steps of disjoint groups (R141-R144, R149) -/

/-- No index of the working array lies in both groups. -/
def LaneGroup.Disjoint (g h : LaneGroup) : Prop := ∀ k < 16, g.Has k → ¬ h.Has k

/-- The quarter-rounds of other groups leave the words of a group alone. -/
theorem getElem_applyGroups_of_not_has (f : Quad → Quad) (gs : List LaneGroup) (x : Words16) (k : Nat) (hk : k < 16)
    (h : ∀ g ∈ gs, ¬ g.Has k) : (applyGroups f gs x)[k] = x[k] := by
  induction gs generalizing x with
  | nil => rfl
  | cons g gs ih =>
    obtain ⟨hg, hgs⟩ := List.forall_mem_cons.1 h
    exact (ih (applyGroup f x g) hgs).trans (getElem_applyGroup_of_not_has f x g k hk hg)

/-- R149: among disjoint groups each group's quarter-round acts as if it were the only one. -/
theorem getElem_applyGroups_of_has (f : Quad → Quad) {gs : List LaneGroup} (x : Words16) {g : LaneGroup} (k : Nat)
    (hk : k < 16) (hdisjoint : gs.Pairwise LaneGroup.Disjoint) (hmem : g ∈ gs) (hg : g.Has k) :
    (applyGroups f gs x)[k] = (applyGroup f x g)[k] := by
  induction gs generalizing x with
  | nil => simp at hmem
  | cons h gs ih =>
    obtain ⟨hh, hgs⟩ := List.pairwise_cons.1 hdisjoint
    rcases List.mem_cons.1 hmem with rfl | hmem
    · exact getElem_applyGroups_of_not_has f gs (applyGroup f x g) k hk fun g' hg' => hh g' hg' k hk hg
    · refine (ih (applyGroup f x h) hgs hmem).trans ?_
      refine getElem_applyGroup_congr f _ x g k hk (fun j hj hgj => ?_) hg
      exact getElem_applyGroup_of_not_has f x h j hj fun hhj => hh g hmem j hj hhj hgj

theorem columns_disjoint : columns.Pairwise LaneGroup.Disjoint := by
  unfold LaneGroup.Disjoint LaneGroup.Has
  decide

theorem diagonals_disjoint : diagonals.Pairwise LaneGroup.Disjoint := by
  unfold LaneGroup.Disjoint LaneGroup.Has
  decide

/-- R143: the four column quarter-rounds are the column step. -/
theorem applyGroups_columns (f : Quad → Quad) (x : Words16) : applyGroups f columns x = columnStep f x := by
  refine Vector.ext fun k hk => ?_
  have hlt : k % 4 < columns.length := Nat.mod_lt _ (by decide)
  have hhas : columns[k % 4].Has k := by
    interval_cases k <;> simp [columns, LaneGroup.Has]
  rw [getElem_applyGroups_of_has f x k hk columns_disjoint (List.getElem_mem hlt) hhas, getElem_applyGroup]
  interval_cases k <;> simp [columns, columnStep, pick]

/-- R143: the four diagonal quarter-rounds are the diagonal step. -/
theorem applyGroups_diagonals (f : Quad → Quad) (x : Words16) : applyGroups f diagonals x = diagonalStep f x := by
  refine Vector.ext fun k hk => ?_
  have hlt : (k + 4 - k / 4) % 4 < diagonals.length := Nat.mod_lt _ (by decide)
  have hhas : diagonals[(k + 4 - k / 4) % 4].Has k := by
    interval_cases k <;> simp [diagonals, LaneGroup.Has]
  rw [getElem_applyGroups_of_has f x k hk diagonals_disjoint (List.getElem_mem hlt) hhas, getElem_applyGroup]
  interval_cases k <;> simp [diagonals, diagonalStep, pick]

/-- R141: column `j` of the working array. -/
def columnOf (x : Words16) (j : Nat) (h : j < 4) : Quad := ⟨x[j], x[j + 4], x[j + 8], x[j + 12]⟩

/-- R142: diagonal `j` of the working array. -/
def diagonalOf (x : Words16) (j : Nat) (h : j < 4) : Quad :=
  ⟨x[j], x[(j + 1) % 4 + 4], x[(j + 2) % 4 + 8], x[(j + 3) % 4 + 12]⟩

theorem columnOf_columnStep (f : Quad → Quad) (x : Words16) (j : Nat) (h : j < 4) :
    columnOf (columnStep f x) j h = f (columnOf x j h) := by
  interval_cases j <;> simp [columnOf, columnStep, pick]

theorem diagonalOf_diagonalStep (f : Quad → Quad) (x : Words16) (j : Nat) (h : j < 4) :
    diagonalOf (diagonalStep f x) j h = f (diagonalOf x j h) := by
  interval_cases j <;> simp [diagonalOf, diagonalStep, pick]

theorem getElem_columnStep (f : Quad → Quad) (x : Words16) (k : Nat) (hk : k < 16) :
    (columnStep f x)[k] = pick (f (columnOf x (k % 4) (by omega))) (k / 4) := by
  simp [columnStep, columnOf]

theorem getElem_diagonalStep (f : Quad → Quad) (x : Words16) (k : Nat) (hk : k < 16) :
    (diagonalStep f x)[k] = pick (f (diagonalOf x ((k + 4 - k / 4) % 4) (by omega))) (k / 4) := by
  simp [diagonalStep, diagonalOf]

theorem columnStep_id (x : Words16) : columnStep id x = x := by
  refine Vector.ext fun k hk => ?_
  rw [getElem_columnStep]
  interval_cases k <;> rfl

theorem diagonalStep_id (x : Words16) : diagonalStep id x = x := by
  refine Vector.ext fun k hk => ?_
  rw [getElem_diagonalStep]
  interval_cases k <;> rfl

/-- Two column steps are one with the composed function. -/
theorem columnStep_columnStep (f g : Quad → Quad) (x : Words16) :
    columnStep g (columnStep f x) = columnStep (g ∘ f) x := by
  refine Vector.ext fun k hk => ?_
  simp only [getElem_columnStep, columnOf_columnStep, Function.comp_apply]

theorem diagonalStep_diagonalStep (f g : Quad → Quad) (x : Words16) :
    diagonalStep g (diagonalStep f x) = diagonalStep (g ∘ f) x := by
  refine Vector.ext fun k hk => ?_
  simp only [getElem_diagonalStep, diagonalOf_diagonalStep, Function.comp_apply]

theorem doubleRoundForward_eq (x : Words16) : doubleRoundForward x = doubleRound x := by
  rw [doubleRoundForward, applyGroups_columns, applyGroups_diagonals, funext quarterRoundForward_eq, doubleRound]

theorem doubleRoundInverse_eq (x : Words16) : doubleRoundInverse x = doubleRoundBack x := by
  rw [doubleRoundInverse, applyGroups_columns, applyGroups_diagonals, funext quarterRoundInverse_eq, doubleRoundBack]

/-- R144: the diagonal step is undone first, then the column step. -/
theorem doubleRoundBack_doubleRound : Function.LeftInverse doubleRoundBack doubleRound := fun x => by
  have hcomp : quarterBack ∘ quarter = id := funext quarterBack_quarter
  rw [doubleRoundBack, doubleRound, diagonalStep_diagonalStep, hcomp, diagonalStep_id, columnStep_columnStep, hcomp,
    columnStep_id]

theorem forwardPermute_eq (v : Words16) : forwardPermute v = doubleRound^[10] v := by
  rw [forwardPermute, funext doubleRoundForward_eq, doubleRounds]

/-- R148. -/
theorem inversePermute_forwardPermute (v : Words16) : inversePermute (forwardPermute v) = v := by
  rw [inversePermute, funext doubleRoundInverse_eq, doubleRounds, forwardPermute_eq]
  exact doubleRoundBack_doubleRound.iterate 10 v

end Sys2Proof.Machine

end

/-! ## Proofs of the family 30_encoding, fourth part: steps, and the caller's compositions -/

section

namespace Sys2Proof.Machine

open Claims

variable {s : State} {r : Request} {rsp : Response} {c c' : Caller} {l : Line}

/-! ### One request whose response is known -/

theorem step_of_presentable (hs : s.accepted = none) (hp : s.port = some r) (hfits : r.presentable s.cfg = true) :
    step s = .next (s.accept r) := by
  rw [step_of_port hs hp]
  exact (acceptPort_next_iff r s _).2 ⟨hfits, rfl⟩

/-- R45: an idle unit gives the caller the response that the instruction of the request delivers. -/
theorem transact_of_exec {i : Instr} (hs : s.accepted = none) (hfits : r.presentable s.cfg = true)
    (hd : decode r.cmd = .ok i) (hexec : ∀ t : State, t.accepted = some r → exec i t = .next (t.answered rsp)) :
    transact r s = .next ((s.accept r).answered rsp, rsp) := by
  have hanswer : step (s.accept r) = .next ((s.accept r).answered rsp) :=
    (step_of_decoded (s.accept_accepted r) hd).trans (hexec _ (s.accept_accepted r))
  have hsettle := settle_of_presented (s := { s with port := some r }) hs rfl hfits hanswer 1
  rw [transact, (present_next_iff r s _).2 ⟨hfits, rfl⟩, andThen_next, hsettle, andThen_next,
    readResponse_of_some (State.answered_resp _ rsp)]
  rfl

/-- Log entry 9: after a command is loaded, a request with this command is in progress, whatever the unit held. -/
theorem exists_accepted_loadCommand (s : State) (cmd : Word) :
    ∃ r, (s.loadCommand cmd).accepted = some r ∧ r.cmd = cmd := by
  cases hs : s.accepted with
  | some r => exact ⟨{ r with cmd := cmd }, by rw [loadCommand_of_accepted hs], rfl⟩
  | none =>
    cases hp : s.port with
    | some r => exact ⟨{ r with cmd := cmd }, by rw [loadCommand_of_port hs hp, State.accept_accepted], rfl⟩
    | none => exact ⟨⟨cmd, [], []⟩, by rw [loadCommand_of_quiet hs hp, State.accept_accepted], rfl⟩

/-! ### One line, and the lines of an expansion (R69, R70) -/

/-- What a caller needs of its unit in order to issue a line. -/
structure State.Ready (s : State) : Prop where
  cfg_legal : s.cfg.Legal
  idle : s.accepted = none

/-- The caller `c` issues the line `l`, gets the response `rsp`, and goes on as `c'` with a unit that is ready again. -/
structure Issues (l : Line) (c : Caller) (rsp : Response) (c' : Caller) : Prop where
  run : runLine l c = .ok (c', rsp)
  ready : c'.unit.Ready
  record : c' = c.record l c'.unit rsp

/-- R69: a line whose operation delivers `rsp` on the lanes it presents is issued and gets `rsp`. The capacities are at
least 17 Words and 65 bytes (R6), so the lanes of every operation fit. -/
theorem exists_issues {i : Instr} {ws : List Word} {bs : List Byte} (hready : c.unit.Ready)
    (hi : instrOf l.op l.shape = .ok i) (hwf : i.wf = true) (hlanes : operandLanes c.env l.operands = .ok (ws, bs))
    (hw : ws.length ≤ 17) (hb : bs.length ≤ 65)
    (hexec : ∀ s r, s.accepted = some r → r.win = ws → r.bin = bs → exec i s = .next (s.answered rsp)) :
    ∃ c', Issues l c rsp c' := by
  obtain ⟨hlegal, hidle⟩ := hready
  have hasm : assemble c.env l = .ok ⟨encode i, ws, bs⟩ := by simp [assemble, assembleCommand_of_wf hi hwf, hlanes]
  have hfits : (Request.mk (encode i) ws bs).presentable c.unit.cfg = true :=
    (presentable_iff _ _).2 ⟨hw.trans hlegal.maxW_ge, hb.trans hlegal.maxB_ge⟩
  have htransact := transact_of_exec hidle hfits (decode_encode hwf) fun t ht => hexec t _ ht rfl rfl
  have hrun : runLine l c = .ok (c.record l ((c.unit.accept ⟨encode i, ws, bs⟩).answered rsp) rsp, rsp) := by
    simp only [runLine, hasm, htransact]
  exact ⟨_, hrun, ⟨hlegal, rfl⟩, rfl⟩

theorem Issues.log_eq (h : Issues l c rsp c') : c'.log = c.log ++ [rsp] :=
  congrArg Caller.log h.record

theorem Issues.env_of_unlabelled (h : Issues l c rsp c') (hl : l.label = none) : c'.env = c.env := by
  rw [h.record, Caller.record, hl]

/-- Log entry 15: the response of a labelled line is the one its label names from now on. -/
theorem Issues.woutOf_lanes {k : Label} {ws : List Word} (h : Issues l c (Response.words ws) c')
    (hl : l.label = some k) : operandLanes c'.env (some (.woutOf k)) = .ok (ws, []) := by
  have henv : c'.env = (k, Response.words ws) :: c.env := by rw [h.record, Caller.record, hl]
  simp [operandLanes, henv, lookupLabel, Except.map]

/-- R70: after a line that ends with OK the expansion goes on. -/
theorem Issues.runExpansion_of_ok (h : Issues l c rsp c') (hok : rsp.status = .ok) (ls : List Line) :
    runExpansion (l :: ls) c = runExpansion ls c' := by
  simp only [runExpansion, h.run, if_pos hok]

/-- R70: the first STATUS that is not OK ends the expansion and is its result. -/
theorem Issues.runExpansion_of_error (h : Issues l c rsp c') (herr : rsp.status ≠ .ok) (ls : List Line) :
    runExpansion (l :: ls) c = .ok (c', rsp.status) := by
  simp only [runExpansion, h.run, if_neg herr]

/-! ### RECOVER on a keystream (R70) -/

/-- R70: the third line of RECOVER, HDRCHK of the recovered State. -/
def recoverCheck : Line := { label := none, op := .hdrchk, shape := none, operands := some (.woutOf ['v']) }

/-- R70: the fourth line of RECOVER, SPLIT of the recovered State. -/
def recoverSplit : Line := { label := none, op := .split, shape := some (2, 2), operands := some (.woutOf ['v']) }

/-- R70, R105, R148: on the keystream of the State `v` the first two lines of RECOVER, B2S and PERMI, end with OK and
leave `v` itself under the label that the last two lines read. -/
theorem runPseudo_recover_keystream (v : Words16) (hready : c.unit.Ready) :
    ∃ c₂, runPseudo (.recover (.bytes ((doubleRound^[10] v).toList.flatMap bytesOf))) c =
        runExpansion [recoverCheck, recoverSplit] c₂ ∧ c₂.unit.Ready ∧
      operandLanes c₂.env (some (.woutOf ['v'])) = .ok (v.toList, []) ∧ c₂.log.length = c.log.length + 2 := by
  have hbytes : (doubleRound^[10] v).toList.flatMap bytesOf = (stateToBlock (forwardPermute v)).toList := by
    rw [stateToBlock_toList, forwardPermute_eq]
  rw [hbytes]
  obtain ⟨c₁, h₁⟩ := exists_issues
    (l := ⟨some ['u'], .b2s, none, some (.bytes (stateToBlock (forwardPermute v)).toList)⟩)
    (rsp := Response.words (forwardPermute v).toList) hready rfl rfl rfl (by simp) (by simp)
    fun s r hs _ hb => by rw [exec_b2s_of_lanes hs hb, blockToState_stateToBlock]
  obtain ⟨c₂, h₂⟩ := exists_issues (l := ⟨some ['v'], .permi, none, some (.woutOf ['u'])⟩)
    (rsp := Response.words v.toList) h₁.ready rfl rfl (h₁.woutOf_lanes rfl) (by simp) (by simp)
    fun s r hs hw _ => by rw [exec_permi_of_lanes hs hw, inversePermute_forwardPermute]
  refine ⟨c₂, ?_, h₂.ready, h₂.woutOf_lanes rfl, by simp [h₂.log_eq, h₁.log_eq]⟩
  calc runExpansion [_, _, recoverCheck, recoverSplit] c
      = runExpansion [_, recoverCheck, recoverSplit] c₁ := h₁.runExpansion_of_ok rfl _
    _ = runExpansion [recoverCheck, recoverSplit] c₂ := h₂.runExpansion_of_ok rfl _

end Sys2Proof.Machine

open Sys2Proof Sys2Proof.Machine Sys2Proof.Claims

/-! ### The obligations about steps and compositions -/

/-- Settles O51: PERMF gets the permuted State, which S2B reads by its label and answers with the bytes of its Words. -/
theorem keystreamIsThePermutedStateInBytes : Obligations.KeystreamIsThePermutedStateInBytes := by
  intro v c hinv hidle _
  obtain ⟨c₁, h₁⟩ := exists_issues (l := ⟨some ['t'], .permf, none, some (.words v.toList)⟩)
    (rsp := Response.words (doubleRound^[10] v).toList) ⟨hinv.cfg_legal, hidle⟩ rfl rfl rfl (by simp) (by simp)
    fun s r hs hw _ => by rw [exec_permf_of_lanes hs hw, forwardPermute_eq]
  obtain ⟨c₂, h₂⟩ := exists_issues (l := ⟨none, .s2b, none, some (.woutOf ['t'])⟩)
    (rsp := Response.bytes ((doubleRound^[10] v).toList.flatMap bytesOf)) h₁.ready rfl rfl (h₁.woutOf_lanes rfl)
    (by simp) (by simp) fun s r hs hw _ => by rw [exec_s2b_of_lanes hs hw, stateToBlock_toList]
  refine ⟨c₂, ?_, by rw [h₂.log_eq, h₁.log_eq, List.append_assoc]; rfl⟩
  rw [runPseudo, Pseudo.expand, h₁.runExpansion_of_ok rfl, h₂.runExpansion_of_ok rfl, runExpansion]

/-- Settles O52: the recovered State starts with the header, so HDRCHK ends with OK and SPLIT gives
its last twelve Words. -/
theorem recoverFindsKeyCounterAndNonce : Obligations.RecoverFindsKeyCounterAndNonce := by
  intro lanes v c _ hv hinv hidle _
  obtain ⟨c₂, hrun, hready, hlanes, hlog⟩ := runPseudo_recover_keystream v ⟨hinv.cfg_legal, hidle⟩
  have hheader : v.toList.take 4 = header := by simp [hv, header]
  have hdrop : v.toList.drop 4 = lanes := by simp [hv, header]
  obtain ⟨c₃, h₃⟩ := exists_issues (l := recoverCheck) hready rfl rfl hlanes (by simp) (by simp)
    fun s r hs hw _ => exec_hdrchk_of_header hs hw hheader
  obtain ⟨c₄, h₄⟩ := exists_issues (i := .split 2 2) (l := recoverSplit) (rsp := Response.words lanes) h₃.ready
    rfl rfl ((h₃.env_of_unlabelled rfl).symm ▸ hlanes) (by simp) (by simp)
    fun s r hs hw _ => by rw [exec_split_of_lanes hs (.inr ⟨rfl, rfl⟩) hw, hdrop]
  refine ⟨c₄, ?_, by rw [h₄.log_eq, List.getLast?_concat]; rfl, by simp [h₄.log_eq, h₃.log_eq, hlog]⟩
  rw [hrun, h₃.runExpansion_of_ok rfl, h₄.runExpansion_of_ok rfl, runExpansion]

/-- Settles O53: HDRCHK of the recovered State ends with RECOVERY_FAILURE, which ends the expansion before SPLIT. -/
theorem recoverRejectsAnotherHeader : Obligations.RecoverRejectsAnotherHeader := by
  intro v c hheader hinv hidle _
  obtain ⟨c₂, hrun, hready, hlanes, hlog⟩ := runPseudo_recover_keystream v ⟨hinv.cfg_legal, hidle⟩
  obtain ⟨c₃, h₃⟩ := exists_issues (l := recoverCheck) hready rfl rfl hlanes (by simp) (by simp)
    fun s r hs hw _ => exec_hdrchk_of_not_header hs hw hheader
  refine ⟨c₃, ?_, by simp [h₃.log_eq, hlog]⟩
  rw [hrun, h₃.runExpansion_of_error (by simp [Response.error])]
  rfl

/-- Settles O13: the step from a busy unit, and the step of an idle one that accepts, which leaves a busy one. -/
theorem stepRunsTheDecodedInstruction : Obligations.StepRunsTheDecodedInstruction :=
  ⟨fun _ _ _ => step_of_decoded, fun s r _ hs hp hfits hd =>
    ⟨s.accept r, step_of_presentable hs hp hfits, rfl, rfl, rfl, rfl, step_of_decoded (s.accept_accepted r) hd⟩⟩

/-- Settles O14: loading a command leaves it in progress, and a busy unit runs what its command decodes to. -/
theorem loadedCommandRunsNext : Obligations.LoadedCommandRunsNext := by
  intro s w i hw hd
  have hfetch : s.withFetchWord 32 w = s.loadCommand (BitVec.ofNat 32 w) := by
    rw [State.withFetchWord, Nat.mod_eq_of_lt hw]
  obtain ⟨r, hr, hcmd⟩ := exists_accepted_loadCommand s (BitVec.ofNat 32 w)
  rw [hfetch]
  exact ⟨step_of_decoded hr (hcmd ▸ hd), r, hr, hcmd⟩

end

/-! ## Proofs of the family 41_word_codec: the one command word of an operation without a shape, and the codec -/

section

namespace Sys2Proof

open Machine Claims

/-! ### The one command word of an operation (R61-R65) -/

/-- R63, R65: an operation without shape fields has one command word, and a CMD with its OP value that decodes at all is
that word, since an OP value names one operation. -/
theorem oneCommand_encode {i : Instr} (h : ¬ ((opCode i).toNat = 0x9 ∨ (opCode i).toNat = 0xA)) :
    OneCommand (encode i) i := by
  have hi := opCode_bounds i
  obtain ⟨hcw, hnw⟩ := shape_eq_zero_of_opCode h
  have hwf : i.wf = true := (wf_iff_shape_lt i).2 (by omega)
  have hword : (encode i).toNat = (opCode i).toNat := by rw [encode_toNat hwf]; omega
  refine fun cmd => ⟨by rw [decode_eq_ok_iff_encode, and_iff_right hwf, eq_comm], fun hop hne s r hs hr => ?_⟩
  cases hd : decode cmd with
  | error e => exact step_of_illegal hs (hr ▸ hd)
  | ok j =>
    obtain ⟨hjwf, rfl⟩ := (decode_eq_ok_iff_encode cmd j).1 hd
    have hj := opCode_bounds j
    have hjword := encode_toNat hjwf
    have hcode : (opCode j).toNat = (opCode i).toNat := by unfold op at hop; omega
    obtain ⟨hjcw, hjnw⟩ := shape_eq_zero_of_opCode (hcode ▸ h)
    exact absurd (BitVec.eq_of_toNat_eq (by omega)) hne

namespace Machine

/-! ### Bytes and Words, a Block and a State (R41, R42, R105) -/

/-- R41: bit `i` of the model's Word is a bit of byte `i / 8`. -/
theorem getLsbD_bytesToWord (b : Vector Byte 4) (i : Nat) (hi : i < 32) :
    (bytesToWord b).getLsbD i = b[i / 8].getLsbD (i % 8) := by
  interval_cases i <;> simp [bytesToWord]

/-- R41: and so is bit `i` of the statement's Word. -/
theorem getLsbD_wordOf (b0 b1 b2 b3 : Byte) (i : Nat) (hi : i < 32) :
    (wordOf b0 b1 b2 b3).getLsbD i = #v[b0, b1, b2, b3][i / 8].getLsbD (i % 8) := by
  change (b3 ++ b2 ++ b1 ++ b0).getLsbD i = _
  simp only [BitVec.getLsbD_append]
  interval_cases i <;> rfl

/-- R41, R102: the shifted bytes of the model are the bytes side by side of the statement. -/
theorem bytesToWord_eq_wordOf (b0 b1 b2 b3 : Byte) : bytesToWord #v[b0, b1, b2, b3] = wordOf b0 b1 b2 b3 :=
  BitVec.eq_of_getLsbD_eq fun i hi => by rw [getLsbD_bytesToWord _ i hi, getLsbD_wordOf _ _ _ _ i hi]

/-- R41: byte `j` of the Word of four bytes is the `j`-th of them. -/
theorem byteOf_bytesToWord (b : Vector Byte 4) (j : Nat) (hj : j < 4) : byteOf (bytesToWord b) j = b[j] := by
  refine BitVec.eq_of_getLsbD_eq fun i hi => ?_
  have hbyte : (8 * j + i) / 8 = j := by omega
  have hbit : (8 * j + i) % 8 = i := by omega
  simp [byteOf, hi, getLsbD_bytesToWord b (8 * j + i) (by omega), hbyte, hbit]

/-- R103: the sixteen Words of a Block. -/
theorem blockToState_toList (b : Block) :
    (blockToState b).toList = (List.finRange 16).map fun i =>
      wordOf b[4 * i.val] b[4 * i.val + 1] b[4 * i.val + 2] b[4 * i.val + 3] := by
  rw [← List.ofFn_eq_map, blockToState, Vector.toList_ofFn]
  simp only [bytesToWord_eq_wordOf]

/-- R105: S2B undoes B2S. -/
theorem stateToBlock_blockToState (b : Block) : stateToBlock (blockToState b) = b := by
  refine Vector.ext fun k hk => ?_
  obtain ⟨i, j, hj, rfl⟩ : ∃ i j, j < 4 ∧ k = 4 * i + j := ⟨k / 4, k % 4, by omega, by omega⟩
  have hword : (4 * i + j) / 4 = i := by omega
  have hbyte : (4 * i + j) % 4 = j := by omega
  simp only [stateToBlock, blockToState, Vector.getElem_ofFn, hword, hbyte, byteOf_bytesToWord _ j hj]
  interval_cases j <;> rfl

end Machine

end Sys2Proof

open Sys2Proof Sys2Proof.Machine Sys2Proof.Claims

/-! ### The obligations -/

/-- Settles O28: the four bytes of the model are the statement's by unfolding. -/
theorem w2bGivesTheBytesOfTheWord : Obligations.W2bGivesTheBytesOfTheWord :=
  ⟨oneCommand_encode (i := .w2b) (by decide), fun _ _ hs =>
    ⟨fun _ hw => exec_w2b_of_lane hs hw, fun hn => withWords_of_length_ne hs hn _⟩⟩

/-- Settles O29: `bytesToWord_eq_wordOf` on the four lanes. -/
theorem b2wGivesTheWordOfTheBytes : Obligations.B2wGivesTheWordOfTheBytes := by
  refine ⟨oneCommand_encode (i := .b2w) (by decide), fun s r hs =>
    ⟨fun b0 b1 b2 b3 hb => ?_, fun hn => withBytes_of_length_ne hs hn _⟩⟩
  rw [exec_b2w_of_lanes (b := #v[b0, b1, b2, b3]) hs hb, bytesToWord_eq_wordOf, Response.words]

/-- Settles O30: `blockToState_toList` on the Block. -/
theorem b2sGivesSixteenWords : Obligations.B2sGivesSixteenWords := by
  refine ⟨oneCommand_encode (i := .b2s) (by decide), fun s r hs =>
    ⟨fun b hb => ?_, fun hn => withBytes_of_length_ne hs hn _⟩⟩
  rw [exec_b2s_of_lanes hs hb, blockToState_toList, Response.words]

/-- Settles O31: `stateToBlock_toList` on the sixteen lanes. -/
theorem s2bGivesSixtyFourBytes : Obligations.S2bGivesSixtyFourBytes := by
  refine ⟨oneCommand_encode (i := .s2b) (by decide), fun s r hs =>
    ⟨fun hlen => ?_, fun hn => withWords_of_length_ne hs hn _⟩⟩
  obtain ⟨v, hv⟩ := exists_vector_of_length hlen
  rw [exec_s2b_of_lanes hs hv, stateToBlock_toList, hv, Response.bytes]

/-- Settles O39: the second operation of each round trip finds the first one's results on its lanes and undoes it. -/
theorem codecRoundTripsAreExact : Obligations.CodecRoundTripsAreExact := by
  refine ⟨fun s r w hs hw => ?_, fun s r hs hlen => ?_, fun s r hs hlen => ?_⟩
  · refine ⟨_, exec_w2b_of_lane hs hw, fun t q ht hq => ?_⟩
    rw [exec_b2w_of_lanes ht hq, wordToBytes, bytesToWord_byteOf, Response.words]
  · obtain ⟨v, hv⟩ := exists_vector_of_length hlen
    refine ⟨_, exec_s2b_of_lanes hs hv, fun t q ht hq => ?_⟩
    rw [exec_b2s_of_lanes ht hq, blockToState_stateToBlock, hv, Response.words]
  · obtain ⟨b, hb⟩ := exists_vector_of_length hlen
    refine ⟨_, exec_b2s_of_lanes hs hb, fun t q ht hq => ?_⟩
    rw [exec_s2b_of_lanes ht hq, stateToBlock_blockToState, hb, Response.bytes]

end

/-! ## Proofs of the family 42_quarter_round: the arithmetic of Words and the two quarter-rounds -/

section

namespace Sys2Proof.Machine

open Claims

/-! ### Rotation by any integer (R121, R122) -/

/-- R121: a left rotation by less than 32 moves bit `i` up by the amount, around the end of the Word. -/
theorem getLsbD_rotateLeft_add_mod (x : Word) {m i : Nat} (hm : m < 32) (hi : i < 32) :
    (x.rotateLeft m).getLsbD ((i + m) % 32) = x.getLsbD i := by
  rw [BitVec.getLsbD_rotateLeft, Nat.mod_eq_of_lt hm]
  rcases Nat.lt_or_ge (i + m) 32 with hsum | hsum
  · rw [Nat.mod_eq_of_lt hsum]
    simp [hsum]
  · have hwrap : (i + m) % 32 = i + m - 32 := by omega
    have hback : 32 - m + (i + m - 32) = i := by omega
    simp [hwrap, hback, show i + m - 32 < m by omega]

/-- R122: a right rotation of the spec counts its amount mod 32. -/
theorem rotr32_emod (x : Word) (n : Int) : rotr32 x (n % 32) = rotr32 x n := by
  rw [rotr32, rotr32, show (32 - n % 32) % 32 = (32 - n) % 32 by omega]

/-- R122: a right rotation of the spec by any amount undoes the left one. -/
theorem rotr32_rotl32 (x : Word) (n : Int) : rotr32 (rotl32 x n) n = x := by
  obtain ⟨m, hm, hlt⟩ : ∃ m : Nat, n % 32 = m ∧ m < 32 := ⟨(n % 32).toNat, by omega, by omega⟩
  rw [← rotr32_emod, rotl32_eq, hm, rotr32_eq _ m hlt, Int.toNat_natCast, rotateRight_rotateLeft x hlt]

/-! ### The lanes of a quadruple (R123, R124) -/

/-- R123, R124: the result lanes the model writes are the ones the statements list. -/
theorem quadLanes_eq_map_pick (q : Quad) : quadLanes q = (List.range 4).map (pick q) := rfl

end Sys2Proof.Machine

open Sys2Proof Sys2Proof.Machine Sys2Proof.Claims

/-! ### The obligations -/

/-- Settles O32: the model's quarter-round is the statement's by `quarterRoundForward_eq`. -/
theorem qrfGivesTheQuarterRound : Obligations.QrfGivesTheQuarterRound := by
  refine ⟨oneCommand_encode (i := .qrf) (by decide), fun s r hs =>
    ⟨fun a b c d hw => ?_, fun hn => withWords_of_length_ne hs hn _⟩⟩
  have hexec := exec_qrf_of_lanes (v := #v[a, b, c, d]) hs hw
  rw [quarterRoundForward_eq, quadLanes_eq_map_pick] at hexec
  exact hexec

/-- Settles O33: the model's inverse quarter-round is the statement's by `quarterRoundInverse_eq`. -/
theorem qriGivesTheInverseQuarterRound : Obligations.QriGivesTheInverseQuarterRound := by
  refine ⟨oneCommand_encode (i := .qri) (by decide), fun s r hs =>
    ⟨fun a b c d hw => ?_, fun hn => withWords_of_length_ne hs hn _⟩⟩
  have hexec := exec_qri_of_lanes (v := #v[a, b, c, d]) hs hw
  rw [quarterRoundInverse_eq, quadLanes_eq_map_pick] at hexec
  exact hexec

/-- Settles O46: `getLsbD_rotateLeft_add_mod` at the reduced amount, and `rotr32_rotl32`. -/
theorem rotationsMoveEveryBit : Obligations.RotationsMoveEveryBit := fun x n =>
  ⟨fun i hi => by rw [rotl32_eq, getLsbD_rotateLeft_add_mod x (by omega) hi], rfl, rotr32_rotl32 x n⟩

/-- Settles O45: `add32` and `sub32` are the sum and the difference of bit vectors. -/
theorem wordArithmeticWraps : Obligations.WordArithmeticWraps := by
  refine fun x y z => ⟨BitVec.toNat_add x y, ?_, eq_sub_iff_add_eq.symm, fun i => BitVec.getLsbD_xor⟩
  rw [sub32, BitVec.toNat_sub]
  omega

end

/-! ## Proofs of the family 43_permutation: the permutations, the double rounds and the order of the groups -/

section

namespace Sys2Proof.Machine

open Claims

theorem inversePermute_eq (v : Words16) : inversePermute v = doubleRoundBack^[10] v := by
  rw [inversePermute, funext doubleRoundInverse_eq, doubleRounds]

theorem LaneGroup.Disjoint.symm {g h : LaneGroup} (hgh : g.Disjoint h) : h.Disjoint g :=
  fun k hk hh hg => hgh k hk hg hh

/-- R149: the quarter-rounds of disjoint groups give the same array in any order, because each word sees the
quarter-round of its own group alone, or of none. -/
theorem applyGroups_eq_of_perm (f : Quad → Quad) {gs hs : List LaneGroup} (hperm : gs.Perm hs)
    (hdisjoint : hs.Pairwise LaneGroup.Disjoint) (x : Words16) : applyGroups f gs x = applyGroups f hs x := by
  have hdisjoint' : gs.Pairwise LaneGroup.Disjoint := hperm.symm.pairwise hdisjoint LaneGroup.Disjoint.symm
  refine Vector.ext fun k hk => ?_
  by_cases hown : ∃ g ∈ hs, g.Has k
  · obtain ⟨g, hmem, hg⟩ := hown
    rw [getElem_applyGroups_of_has f x k hk hdisjoint' (hperm.mem_iff.2 hmem) hg,
      getElem_applyGroups_of_has f x k hk hdisjoint hmem hg]
  · have hnone : ∀ g ∈ hs, ¬ g.Has k := fun g hmem hg => hown ⟨g, hmem, hg⟩
    rw [getElem_applyGroups_of_not_has f gs x k hk fun g hmem => hnone g (hperm.mem_iff.1 hmem),
      getElem_applyGroups_of_not_has f hs x k hk hnone]

end Sys2Proof.Machine

open Sys2Proof Sys2Proof.Machine Sys2Proof.Claims

/-! ### The obligations -/

/-- Settles O34: the model's permutation is ten of the statement's double rounds by `forwardPermute_eq`. -/
theorem permfGivesTenDoubleRounds : Obligations.PermfGivesTenDoubleRounds := by
  refine ⟨oneCommand_encode (i := .permf) (by decide), fun s r hs =>
    ⟨fun v hv => ?_, fun hn => withWords_of_length_ne hs hn _⟩⟩
  rw [exec_permf_of_lanes hs hv, forwardPermute_eq, Response.words]

/-- Settles O35: the model's inverse permutation is ten of the statement's reverse double rounds by
`inversePermute_eq`. -/
theorem permiGivesTenReverseDoubleRounds : Obligations.PermiGivesTenReverseDoubleRounds := by
  refine ⟨oneCommand_encode (i := .permi) (by decide), fun s r hs =>
    ⟨fun v hv => ?_, fun hn => withWords_of_length_ne hs hn _⟩⟩
  rw [exec_permi_of_lanes hs hv, inversePermute_eq, Response.words]

/-- Settles O43: both double rounds of the model are the statement's, whose reverse one undoes the forward one step by
step (`doubleRoundBack_doubleRound`). -/
theorem reverseDoubleRoundUndoesForward : Obligations.ReverseDoubleRoundUndoesForward := by
  refine fun x => ⟨doubleRoundForward_eq x, doubleRoundInverse_eq x, ?_⟩
  rw [doubleRoundForward_eq, doubleRoundInverse_eq]
  exact doubleRoundBack_doubleRound x

/-- Settles O44: the columns are disjoint, and so are the diagonals, so that `applyGroups_eq_of_perm` puts the groups
back in the order in which they are known to give the step. -/
theorem groupsOfAStepMayRunInAnyOrder : Obligations.GroupsOfAStepMayRunInAnyOrder := by
  refine fun f gs x => ⟨fun hperm => ?_, fun hperm => ?_⟩
  · rw [applyGroups_eq_of_perm f hperm columns_disjoint, applyGroups_columns]
  · rw [applyGroups_eq_of_perm f hperm diagonals_disjoint, applyGroups_diagonals]

end

/-! ## Proofs of the family 44_state_builder: the command words with a shape, BUILD, SPLIT and HDRCHK -/

section

namespace Sys2Proof

open Machine Claims

/-! ### The command words of an operation with shape fields (R61-R65) -/

/-- R61, R63, R65: the command words of an operation that takes any shape are the sums of its OP value and its two shape
fields, and no CMD with RSVD not 0 decodes. -/
theorem shapedCommands_of_fields {k : Nat} {i : Nat → Nat → Instr} (hop : ∀ c n, (opCode (i c n)).toNat = k)
    (hcw : ∀ c n, shapeCw (i c n) = c) (hnw : ∀ c n, shapeNw (i c n) = n) : ShapedCommands k i := by
  refine ⟨fun cmd c n => ?_, fun cmd _ hrsvd s r hs hr => ?_⟩
  · have hwf : (i c n).wf = true ↔ c < 8 ∧ n < 8 := by rw [wf_iff_shape_lt, hcw, hnw]
    have hword (h : (i c n).wf = true) : encode (i c n) = cmd ↔ cmd.toNat = k + 16 * c + 128 * n := by
      rw [← BitVec.toNat_inj, encode_toNat h, hop, hcw, hnw, eq_comm]
    rw [decode_eq_ok_iff_encode, and_congr_right hword, hwf, and_comm]
  · cases hd : decode cmd with
    | error e => exact step_of_illegal hs (hr ▸ hd)
    | ok j => exact absurd ((decode_eq_ok_iff cmd j).1 hd).1 hrsvd

namespace Machine

variable {s : State} {r : Request}

/-! ### A failed check, the shape before the count (R161, R202, R203, R206) -/

/-- R203: an illegal shape ends BUILD and SPLIT, the operations that have one, whatever the lanes. -/
theorem exec_of_not_shapeFine (hs : s.accepted = some r) {i : Instr} (hshape : ¬ ShapeFine i) :
    exec i s = .next (s.answered (Response.error .shapeError)) := by
  cases i with
  | build c n => rw [exec, execBuild, withRequest_of_accepted hs, if_neg (mt (shapeOk_iff c n).1 hshape), raise_eq]
  | split c n => rw [exec, execSplit, withRequest_of_accepted hs, if_neg (mt (shapeOk_iff c n).1 hshape), raise_eq]
  | _ => exact absurd trivial hshape

/-- R202: once the shape is legal, a wrong count on the port that the operation reads ends it. -/
theorem exec_of_not_countOk (hs : s.accepted = some r) {i : Instr} (hshape : ShapeFine i) (hcount : ¬ CountOk r i) :
    exec i s = .next (s.answered (Response.error .lengthError)) := by
  cases i with
  | build c n =>
    have htwelve : 8 + c + n = 12 := by unfold ShapeFine LegalShape at hshape; omega
    rw [exec, execBuild, withRequest_of_accepted hs, if_pos ((shapeOk_iff c n).2 hshape), htwelve]
    exact withWords_of_length_ne hs hcount _
  | split c n =>
    rw [exec, execSplit, withRequest_of_accepted hs, if_pos ((shapeOk_iff c n).2 hshape)]
    exact withWords_of_length_ne hs hcount _
  | b2w | b2s => exact withBytes_of_length_ne hs hcount _
  | w2b | s2b | qrf | qri | permf | permi | hdrchk => exact withWords_of_length_ne hs hcount _

/-! ### A State as its first four Words and the other twelve -/

/-- Four Words and twelve more are the lanes of one State. -/
theorem exists_state_of_append {front back : List Word} (hfront : front.length = 4) (hback : back.length = 12) :
    ∃ v : Words16, front ++ back = v.toList ∧ v.toList.take 4 = front ∧ v.toList.drop 4 = back := by
  obtain ⟨v, hv⟩ := exists_vector_of_length (n := 16) (l := front ++ back) (by simp [hfront, hback])
  exact ⟨v, hv, by rw [← hv, List.take_left' hfront], by rw [← hv, List.drop_left' hfront]⟩

end Machine

end Sys2Proof

open Sys2Proof Sys2Proof.Machine Sys2Proof.Claims

/-! ### The obligations -/

/-- Settles O22: `shapeOk_iff`, and the shape check (`exec_of_not_shapeFine`) for BUILD and for SPLIT. -/
theorem illegalShapesGiveShapeError : Obligations.IllegalShapesGiveShapeError := fun c n =>
  ⟨shapeOk_iff c n, fun hshape _ _ hs =>
    ⟨exec_of_not_shapeFine (i := .build c n) hs hshape, exec_of_not_shapeFine (i := .split c n) hs hshape⟩⟩

/-- Settles O36: the three answers of BUILD; the header of the model unfolds to the one the statement writes out. -/
theorem buildGivesHeaderAndLanes : Obligations.BuildGivesHeaderAndLanes :=
  ⟨shapedCommands_of_fields (fun _ _ => rfl) (fun _ _ => rfl) (fun _ _ => rfl), fun _ _ c n hs =>
    ⟨exec_build_of_lanes hs, exec_of_not_countOk (i := .build c n) hs, exec_of_not_shapeFine (i := .build c n) hs⟩⟩

/-- Settles O37: the lanes are a State whose first four Words SPLIT drops unseen. -/
theorem splitGivesWordsFourToFifteen : Obligations.SplitGivesWordsFourToFifteen := by
  refine ⟨shapedCommands_of_fields (fun _ _ => rfl) (fun _ _ => rfl) (fun _ _ => rfl), fun s r c n hs =>
    ⟨fun hshape front back hfront hback hw => ?_, exec_of_not_countOk (i := .split c n) hs,
      exec_of_not_shapeFine (i := .split c n) hs⟩⟩
  obtain ⟨v, hv, -, hdrop⟩ := exists_state_of_append hfront hback
  rw [exec_split_of_lanes hs hshape (hw.trans hv), hdrop, Response.words]

/-- Settles O38: the lanes are a State whose first four Words are the header, or are not. -/
theorem hdrchkComparesTheHeader : Obligations.HdrchkComparesTheHeader := by
  refine ⟨oneCommand_encode (i := .hdrchk) (by decide), fun s r hs =>
    ⟨fun rest hrest hw => ?_, fun front rest hfront hrest hne hw => ?_, exec_of_not_countOk (i := .hdrchk) hs trivial⟩⟩
  · obtain ⟨v, hv, htake, -⟩ := exists_state_of_append (front := header) rfl hrest
    exact exec_hdrchk_of_header hs (hw.trans hv) htake
  · obtain ⟨v, hv, htake, -⟩ := exists_state_of_append hfront hrest
    exact exec_hdrchk_of_not_header hs (hw.trans hv) (htake.trans_ne hne)

end

/-! ## Proofs of the family 60_exceptions: the illegal commands, the STATUS of a request, and the units of a system -/

section

namespace Sys2Proof

open Machine Claims

/-! ### The illegal commands (R65, R205) -/

/-- R62: every OP value from 0x1 to 0xB names an operation. -/
theorem opOf_ne_error {k : Nat} (hlow : 1 ≤ k) (hhigh : k ≤ 0xB) (c n : Nat) (why : Illegal) :
    opOf k c n ≠ .error why := by
  interval_cases k <;> nofun

/-- R65, R68: each test of the decoder is one clause of the rule, and past the tests every OP value names an
operation. -/
theorem illegalCmd_iff (cmd : Word) : IllegalCmd cmd ↔ ∃ why, decode cmd = .error why := by
  have hop : fieldOp cmd = op cmd := fieldOp_eq cmd
  have hcw : fieldCw cmd = cw cmd := fieldCw_eq cmd
  have hnw : fieldNw cmd = nw cmd := fieldNw_eq cmd
  have hrsvd : fieldRsvd cmd = rsvd cmd := fieldRsvd_eq cmd
  rw [IllegalCmd, decode, hop, hcw, hnw, hrsvd]
  split_ifs with hreserved hunused hshaped hfields
  · exact iff_of_true (by omega) ⟨_, rfl⟩
  · exact iff_of_true (by omega) ⟨_, rfl⟩
  · exact iff_of_false (by omega) fun ⟨why, h⟩ => opOf_ne_error (by omega) (by omega) _ _ why h
  · exact iff_of_true (by omega) ⟨_, rfl⟩
  · exact iff_of_false (by omega) fun ⟨why, h⟩ => opOf_ne_error (by omega) (by omega) _ _ why h

theorem answeredIllegal_of_error {cmd : Word} {why : Illegal} (hd : decode cmd = .error why) : AnsweredIllegal cmd :=
  fun _ _ hs hr => step_of_illegal hs (hr ▸ hd)

namespace Machine

variable {s t : State} {r : Request} {rsp : Response}

/-! ### The STATUS of a request and its ports (R201, R204, R206, R207) -/

/-- R204: with sixteen lanes the header check can fail, and HDRCHK is the one operation that has it. -/
theorem exec_of_not_headerFine (hs : s.accepted = some r) {i : Instr} (hcount : CountOk r i)
    (hheader : ¬ HeaderFine r i) : exec i s = .next (s.answered (Response.error .recoveryFailure)) := by
  cases i with
  | hdrchk =>
    obtain ⟨v, hv⟩ := exists_vector_of_length hcount
    exact exec_hdrchk_of_not_header hs hv (hv ▸ hheader)
  | _ => exact absurd trivial hheader

theorem step_delivers (hs : s.accepted ≠ none) : Delivers s (step s) := by
  rcases step_cases s with ⟨_, h⟩ | ⟨_, hidle, _⟩ | ⟨_, hidle, _⟩ | ⟨hidle, _⟩
  · exact h
  all_goals exact absurd hidle hs

/-- R29: a response without lanes reads both counts 0 and has no lane to read. -/
theorem reads_of_no_lanes (h : s.resp = some rsp) (hwout : rsp.wout = []) (hbout : rsp.bout = []) :
    readWocnt s = .ok 0 ∧ readBocnt s = .ok 0 ∧ ∀ i, readWout i s = .error .noValue ∧ readBout i s = .error .noValue := by
  refine ⟨?_, ?_, fun i => ⟨?_, ?_⟩⟩
  · rw [readWocnt_of_resp h, Response.wocnt, hwout]; rfl
  · rw [readBocnt_of_resp h, Response.bocnt, hbout]; rfl
  · rw [readWout_of_resp h]; exact laneAt_of_length_le (by simp [hwout])
  · rw [readBout_of_resp h]; exact laneAt_of_length_le (by simp [hbout])

theorem Status.ofCode_code (st : Status) : Status.ofCode st.code = .ok st := by
  cases st <;> rfl

/-- U7: no name has a code above 4. -/
theorem Status.ofCode_of_five_le {c : BitVec 3} (h : 5 ≤ c.toNat) : Status.ofCode c = .error .statusOutsideDomain := by
  have hcode : c = 5 ∨ c = 6 ∨ c = 7 := by bv_omega
  rcases hcode with rfl | rfl | rfl <;> rfl

theorem readStatusCode_of_resp (h : s.resp = some rsp) : readStatusCode s = .ok rsp.status.code := by
  simp [readStatusCode, readStatus_of_resp h, Except.map]

/-! ### Accepting the next request, and the units of a system (R209, R214) -/

/-- R209: what acceptance does depends on the request and the capacities alone. -/
theorem acceptPort_congr (h : t.cfg = s.cfg) : acceptPort r s = acceptPort r t := by
  rw [acceptPort, acceptPort, h, State.accept_eq s r t h]

/-- R214: what a step of unit `k` does depends on that unit alone: in every system that has the same unit in the place
`k` it puts the same state there. (With no unit in that place, setting it changes nothing, whatever the state.) -/
theorem stepUnit_local {k : Nat} {us us' : Units} (h : stepUnit k us = .next us') :
    ∃ s', ∀ vs : Units, vs[k]? = us[k]? → stepUnit k vs = .next (vs.set k s') := by
  cases hs : us[k]? with
  | none =>
    refine ⟨State.reset, fun vs hv => ?_⟩
    rw [List.set_eq_of_length_le (List.getElem?_eq_none_iff.1 hv)]
    simp only [stepUnit, hv]
  | some s =>
    cases hstep : step s with
    | next s' => exact ⟨s', fun vs hv => by simp only [stepUnit, hv, hstep]⟩
    | fault f => simp [stepUnit, hs, hstep] at h
    | refused r => simp [stepUnit, hs, hstep] at h

end Machine

end Sys2Proof

open Sys2Proof Sys2Proof.Machine Sys2Proof.Claims

/-! ### The obligations -/

/-- Settles O5: of the four things a step can do only turning a request away is no next state, and the invariant lets no
request stand on the ports that does not fit them. -/
theorem unitNeverStops : Obligations.UnitNeverStops := by
  intro s hinv
  rcases step_cases s with ⟨_, rsp, _, hanswer⟩ | ⟨r, _, _, _, haccept⟩ | ⟨r, _, hport, hover, _⟩ | ⟨_, _, hwait⟩
  · exact ⟨_, hanswer⟩
  · exact ⟨_, haccept⟩
  · simp [hinv.port_fits r hport] at hover
  · exact ⟨_, hwait⟩

/-- Settles O9: `illegalCmd_iff`, and the step of a unit whose CMD does not decode. -/
theorem illegalCommandsAreReported : Obligations.IllegalCommandsAreReported := by
  refine fun cmd => ⟨illegalCmd_iff cmd, fun hillegal => ?_⟩
  obtain ⟨why, hd⟩ := (illegalCmd_iff cmd).1 hillegal
  exact answeredIllegal_of_error hd

/-- Settles O20: the checks one by one in the rule's order, the first that fails by the lemma that names its answer. -/
theorem statusFollowsThePriority : Obligations.StatusFollowsThePriority := by
  intro s r hs
  unfold Decides
  cases hd : decode r.cmd with
  | error e => exact ⟨_, step_of_illegal hs hd, rfl⟩
  | ok i =>
    rw [step_of_decoded hs hd]
    by_cases hshape : ShapeFine i
    case neg => exact ⟨_, exec_of_not_shapeFine hs hshape, .inl ⟨hshape, rfl⟩⟩
    by_cases hcount : CountOk r i
    case neg => exact ⟨_, exec_of_not_countOk hs hshape hcount, .inr (.inl ⟨hshape, hcount, rfl⟩)⟩
    by_cases hheader : HeaderFine r i
    case neg =>
      exact ⟨_, exec_of_not_headerFine hs hcount hheader, .inr (.inr (.inl ⟨hshape, hcount, hheader, rfl⟩))⟩
    obtain ⟨rsp, hexec, hok, -⟩ := exec_of_checks hs hshape hcount hheader
    exact ⟨rsp, hexec, .inr (.inr (.inr ⟨hshape, hcount, hheader, hok⟩))⟩

/-- Settles O21: `exec_of_not_countOk`, whose error response unfolds to the one the statement writes out. -/
theorem wrongCountsGiveLengthError : Obligations.WrongCountsGiveLengthError :=
  fun _ _ _ hs hshape hcount => exec_of_not_countOk hs hshape hcount

/-- Settles O23: the response that a step delivers is sound, and a sound error response has no lanes. -/
theorem errorResponsesCarryNoLanes : Obligations.ErrorResponsesCarryNoLanes := by
  intro s t rsp hs hstep hresp herror
  obtain ⟨rsp', hsound, hanswer⟩ := step_delivers hs
  cases hanswer.symm.trans hstep
  obtain rfl : rsp' = rsp := Option.some.inj hresp
  obtain ⟨hwout, hbout⟩ := hsound.error_empty herror
  exact ⟨readStatus_of_resp hresp, reads_of_no_lanes hresp hwout hbout⟩

/-- Settles O50: by `stepUnit_local` each step sets its own place, to a state that a step of another unit does not
change, and setting two different places commutes. -/
theorem unitsAreIndependent : Obligations.UnitsAreIndependent := by
  refine ⟨fun k us us' h => ?_, fun j k us us₁ us₂ hjk h₁ h₂ => ?_⟩
  · obtain ⟨s', hlocal⟩ := stepUnit_local h
    cases (hlocal us rfl).symm.trans h
    exact ⟨List.length_set, fun j hj => List.getElem?_set_ne hj.symm⟩
  · obtain ⟨s₁, hlocal₁⟩ := stepUnit_local h₁
    obtain ⟨s₂, hlocal₂⟩ := stepUnit_local h₂
    cases (hlocal₁ us rfl).symm.trans h₁
    cases (hlocal₂ us rfl).symm.trans h₂
    refine ⟨(us.set j s₁).set k s₂, hlocal₂ _ (List.getElem?_set_ne hjk), ?_⟩
    rw [List.set_comm s₁ s₂ hjk]
    exact hlocal₁ _ (List.getElem?_set_ne hjk.symm)

/-- Settles O19: both units are idle and have the same capacities, so that acceptance does the same in both. -/
theorem acceptanceAfterAnyResponseIsAsAfterReset : Obligations.AcceptanceAfterAnyResponseIsAsAfterReset := by
  intro s r hs
  rw [step_of_port (s := { s with port := some r }) hs rfl,
    step_of_port (s := { State.resetWith s.cfg with port := some r }) rfl rfl]
  exact acceptPort_congr rfl

/-- Settles O47: the five codes by evaluation, then the two directions of the code and the port. -/
theorem statusCodesAreTheSpecs : Obligations.StatusCodesAreTheSpecs :=
  ⟨rfl, rfl, rfl, rfl, rfl, Status.ofCode_code, fun _ => Status.ofCode_of_five_le, fun _ _ => readStatusCode_of_resp⟩

end

/-! ## Proofs of the family 70_reset_and_hazards: reset, the sampled request, and the results on the ports -/

section

namespace Sys2Proof.Machine

variable {s t : State}

/-- R240: a unit with nothing to do is left as it is by any number of steps. -/
theorem steps_of_quiet (hs : s.accepted = none) (hp : s.port = none) (n : Nat) : steps n s = .next s := by
  induction n with
  | zero => rfl
  | succ n ih => rw [steps, step_of_quiet hs hp, andThen_next, ih]

/-- R243: the step of a busy unit answers the request it has sampled, whatever then stands on the request ports, and
leaves what stands there. -/
theorem step_with_port_of_busy (hs : s.accepted ≠ none) (hstep : step s = .next t) (p : Option Request) :
    step { s with port := p } = .next { t with port := p } := by
  obtain ⟨r, hr⟩ := Option.ne_none_iff_exists'.1 hs
  obtain ⟨rsp, hrsp⟩ := step_answersAlike r
  cases (hrsp s hr).symm.trans hstep
  exact hrsp { s with port := p } hr

end Sys2Proof.Machine

open Sys2Proof.Machine

/-! ### The obligations -/

/-- Settles O18: a unit after reset with empty request ports has nothing to do and stays so (`steps_of_quiet`); with a
request that fits its capacities, which reset keeps, it accepts it. -/
theorem resetAbandonsTheRequest : Obligations.ResetAbandonsTheRequest := fun s =>
  ⟨s.assertReset_accepted, s.assertReset_x, s.assertReset_quad, s.assertReset_resp,
    fun n => ⟨{ s.assertReset with port := none }, steps_of_quiet rfl rfl n, rfl, rfl⟩,
    fun r hfits => ⟨_, step_of_presentable (s := { s.assertReset with port := some r }) rfl rfl hfits,
      State.accept_accepted _ r⟩⟩

/-- Settles O26: acceptance takes the whole request, and the step after it reads only what was taken
(`step_with_port_of_busy`). -/
theorem portsAreSampledOnce : Obligations.PortsAreSampledOnce :=
  ⟨fun s r hs hp hfits => ⟨s.accept r, step_of_presentable hs hp hfits, s.accept_accepted r⟩,
    fun _ _ p hs hstep => step_with_port_of_busy hs hstep p⟩

/-- Settles O15: waiting changes nothing, presenting changes the request ports alone, and acceptance empties the result
ports, after which every read of them faults. -/
theorem resultsHoldUntilNextAcceptance : Obligations.ResultsHoldUntilNextAcceptance := by
  refine fun s hs => ⟨step_of_quiet hs, fun r s' hpresent => ?_, fun r hp hfits => ?_⟩
  · obtain ⟨-, rfl⟩ := (present_next_iff r s s').1 hpresent
    exact ⟨rfl, hs⟩
  · exact ⟨s.accept r, step_of_presentable hs hp hfits, s.accept_resp r, reads_fault_of_none (s.accept_resp r)⟩

end

/-! ## Proofs of the family other: the round trips of commands and of pairs of operations -/

section

namespace Sys2Proof.Machine

open Claims

/-! ### Two operations that undo each other on Word lanes (R125, R148, R166) -/

/-- The operation answers OK on the Word lanes `ws`, with the Word results `out`, in every state. -/
def GivesWords (i : Instr) (ws out : List Word) : Prop :=
  ∀ s r, s.accepted = some r → r.win = ws → exec i s = .next (s.answered (Response.words out))

theorem undoesWords_of_givesWords {i j : Instr} {ws out : List Word} (hi : GivesWords i ws out)
    (hj : GivesWords j out ws) : UndoesWords i j ws :=
  fun s r hs hw => ⟨out, hi s r hs hw, hj⟩

/-! ### The quarter-rounds (R123-R125) -/

theorem exists_quad_of_length {ws : List Word} (h : ws.length = 4) : ∃ q : Quad, ws = quadLanes q := by
  obtain ⟨v, rfl⟩ := exists_vector_of_length h
  exact ⟨⟨v[0], v[1], v[2], v[3]⟩, by rw [← Vector.ofFn_getElem (xs := v)]; rfl⟩

theorem givesWords_qrf (q : Quad) : GivesWords .qrf (quadLanes q) (quadLanes (quarter q)) := fun s r hs hw => by
  rw [← quarterRoundForward_eq]
  exact exec_qrf_of_lanes (v := #v[q.a, q.b, q.c, q.d]) hs hw

theorem givesWords_qri (q : Quad) : GivesWords .qri (quadLanes q) (quadLanes (quarterBack q)) := fun s r hs hw => by
  rw [← quarterRoundInverse_eq]
  exact exec_qri_of_lanes (v := #v[q.a, q.b, q.c, q.d]) hs hw

/-- A left rotation undoes the right one: the converse of `rotateRight_rotateLeft`, since there are only finitely many
Words. -/
theorem rotateLeft_rotateRight (x : Word) {n : Nat} (h : n < 32) : (x.rotateRight n).rotateLeft n = x :=
  have hleft : Function.LeftInverse (fun y : Word => y.rotateRight n) (fun y => y.rotateLeft n) :=
    fun y => rotateRight_rotateLeft y h
  hleft.rightInverse_of_surjective (Finite.surjective_of_injective hleft.injective) x

/-- The converse of R125: each statement of QRF takes back one of QRI, the last first. -/
theorem quarter_quarterBack (q : Quad) : quarter (quarterBack q) = q := by
  simp only [quarter, quarterBack]
  simp [rotateLeft_rotateRight]

/-! ### The permutations (R145, R146, R148) -/

theorem givesWords_permf (v : Words16) : GivesWords .permf v.toList (doubleRound^[10] v).toList := fun s r hs hw => by
  rw [← forwardPermute_eq]
  exact exec_permf_of_lanes hs hw

theorem givesWords_permi (v : Words16) : GivesWords .permi v.toList (doubleRoundBack^[10] v).toList :=
  fun s r hs hw => by
    rw [← inversePermute_eq]
    exact exec_permi_of_lanes hs hw

/-- The converse of R144: the column step is done again first, then the diagonal step. -/
theorem doubleRound_doubleRoundBack : Function.LeftInverse doubleRound doubleRoundBack := fun x => by
  have hcomp : quarter ∘ quarterBack = id := funext quarter_quarterBack
  rw [doubleRound, doubleRoundBack, columnStep_columnStep, hcomp, columnStep_id, diagonalStep_diagonalStep, hcomp,
    diagonalStep_id]

/-! ### The state builder (R162, R163, R166) -/

section

variable {c n : Nat} (hshape : LegalShape c n)
include hshape

theorem givesWords_build {ws : List Word} (hlen : ws.length = 12) : GivesWords (.build c n) ws (header ++ ws) :=
  fun _ _ hs hw => hw ▸ exec_build_of_lanes hs hshape (hw ▸ hlen)

theorem givesWords_split {front back : List Word} (hfront : front.length = 4) (hback : back.length = 12) :
    GivesWords (.split c n) (front ++ back) back := fun s r hs hw => by
  obtain ⟨v, hv, -, hdrop⟩ := exists_state_of_append hfront hback
  rw [exec_split_of_lanes hs hshape (hw.trans hv), hdrop]

end

/-- R164: sixteen lanes on which HDRCHK answers OK begin with the header. -/
theorem exists_append_of_hdrchk_ok {s : State} {r : Request} (hs : s.accepted = some r) (hlen : r.win.length = 16)
    (hok : exec .hdrchk s = .next (s.answered Response.nothing)) :
    ∃ rest, rest.length = 12 ∧ r.win = header ++ rest := by
  obtain ⟨v, hv⟩ := exists_vector_of_length hlen
  have hheader : v.toList.take 4 = header := by
    by_contra hne
    cases hok.symm.trans (exec_hdrchk_of_not_header hs hv hne)
  exact ⟨v.toList.drop 4, by simp, by rw [hv, ← hheader, List.take_append_drop]⟩

end Sys2Proof.Machine

open Sys2Proof Sys2Proof.Machine Sys2Proof.Claims

/-! ### The obligations -/

/-- Settles O6: the encoder's half of `decode_eq_ok_iff_encode`, which is `decode_encode`. -/
theorem decodeUndoesEncode : Obligations.DecodeUndoesEncode := fun _ hwf => decode_encode hwf

/-- Settles O7: the words that decode to an instruction are its one command word (`decode_eq_ok_iff_encode`). -/
theorem encodeUndoesDecode : Obligations.EncodeUndoesDecode := fun cmd i =>
  (decode_eq_ok_iff_encode cmd i).1

/-- Settles O40: the lanes are a quadruple, on which the two quarter-rounds are inverse both ways. -/
theorem quarterRoundsUndoEachOther : Obligations.QuarterRoundsUndoEachOther := by
  intro ws hlen
  obtain ⟨q, rfl⟩ := exists_quad_of_length hlen
  constructor
  · have hback := givesWords_qri (quarter q)
    rw [quarterBack_quarter] at hback
    exact undoesWords_of_givesWords (givesWords_qrf q) hback
  · have hforth := givesWords_qrf (quarterBack q)
    rw [quarter_quarterBack] at hforth
    exact undoesWords_of_givesWords (givesWords_qri q) hforth

/-- Settles O41: the lanes are a State, on which ten double rounds and ten reverse ones are inverse both ways, since one
and one are. -/
theorem permutationsUndoEachOther : Obligations.PermutationsUndoEachOther := by
  intro ws hlen
  obtain ⟨v, rfl⟩ := exists_vector_of_length hlen
  constructor
  · have hback := givesWords_permi (doubleRound^[10] v)
    rw [doubleRoundBack_doubleRound.iterate 10 v] at hback
    exact undoesWords_of_givesWords (givesWords_permf v) hback
  · have hforth := givesWords_permf (doubleRoundBack^[10] v)
    rw [doubleRound_doubleRoundBack.iterate 10 v] at hforth
    exact undoesWords_of_givesWords (givesWords_permi v) hforth

/-- Settles O42: SPLIT drops the four Words in front of the last twelve and BUILD puts the header there, which gives the
same State back when HDRCHK has found the header there before. -/
theorem buildAndSplitUndoEachOther : Obligations.BuildAndSplitUndoEachOther := by
  refine fun c n hshape => ⟨fun ws hlen => ?_, fun ws hlen hchecked => ?_, fun front back hfront hback s r hs hw => ?_⟩
  · exact undoesWords_of_givesWords (givesWords_build hshape hlen) (givesWords_split hshape rfl hlen)
  · obtain ⟨s, r, hs, rfl, hok⟩ := hchecked
    obtain ⟨rest, hrest, hw⟩ := exists_append_of_hdrchk_ok hs hlen hok
    rw [hw]
    exact undoesWords_of_givesWords (givesWords_split hshape rfl hrest) (givesWords_build hshape hrest)
  · exact ⟨back, givesWords_split hshape hfront hback s r hs hw, givesWords_build hshape hback⟩

end
